-- ==== Sys2Proof/Word.lean ====
section
/-!
DEFINITION. The word types of the machine (rules R8, R11 of spec/00_scope.md): every quantity is an unsigned
bit vector of a stated width, and every widening is a zero extension (rule R13).
-/

namespace Sys2Proof

/-- An 8-bit value: a general register, a timer, a byte of memory, a literal `kk`. -/
abbrev Byte := BitVec 8

/-- A 16-bit value: `pc`, `I`, a stack slot, an instruction word. -/
abbrev Word := BitVec 16

/-- A 12-bit address literal `nnn`. -/
abbrev Addr := BitVec 12

/-- The index of a general register, V0 to VF (rule R32), or of a key (rule R44): 0 to 15. -/
abbrev Reg := Fin 16

/-- `zext_16` of a byte (rule R13). -/
def zext8 (b : Byte) : Word := b.setWidth 16

/-- `zext_16` of a 12-bit address (rule R83). -/
def zext12 (a : Addr) : Word := a.setWidth 16

/-- A flag as the 8-bit value 0x00 or 0x01 (rule R131). -/
def flagByte (f : Bool) : Byte := if f then 1 else 0

end Sys2Proof
end

