-- ==== Sys2Proof/Syntax.lean ====
section
/-!
DEFINITION. The closed instruction set: one constructor per row of spec/opcode_table.json, in the table's order
(rule R84 of spec/30_encoding.md). Registers are indices, literals are bit vectors of the width they have in the word,
the row count of DRW is a number (its bound is checked in WellFormed.lean).
-/

namespace Sys2Proof

/-- The 34 recognised instructions (rule R84). -/
inductive Instr where
  | cls
  | ret
  | jp (nnn : Addr)
  | call (nnn : Addr)
  | se (x : Reg) (kk : Byte)
  | sne (x : Reg) (kk : Byte)
  | seReg (x y : Reg)
  | ldImm (x : Reg) (kk : Byte)
  | addImm (x : Reg) (kk : Byte)
  | ldReg (x y : Reg)
  | or (x y : Reg)
  | and (x y : Reg)
  | xor (x y : Reg)
  | addReg (x y : Reg)
  | sub (x y : Reg)
  /-- `y` is an operand field of the word that selects nothing (rule R91); it is kept so that decoding loses no bit. -/
  | shr (x y : Reg)
  | subn (x y : Reg)
  /-- `y` selects nothing here either (rule R91). -/
  | shl (x y : Reg)
  | sneReg (x y : Reg)
  | ldAddr (nnn : Addr)
  | jpOffset (nnn : Addr)
  | rnd (x : Reg) (kk : Byte)
  | drw (x y : Reg) (n : Nat)
  | skp (x : Reg)
  | sknp (x : Reg)
  | ldVxDt (x : Reg)
  | waitKey (x : Reg)
  | ldDtVx (x : Reg)
  | ldStVx (x : Reg)
  | addIVx (x : Reg)
  | ldFont (x : Reg)
  | bcd (x : Reg)
  | storeRegs (x : Reg)
  | loadRegs (x : Reg)
  deriving DecidableEq, Repr

end Sys2Proof
end

