-- ==== Sys2Proof/WellFormed.lean ====
section
/-!
DEFINITION. Which terms of Instr are instructions. The field widths of rule R81 of spec/30_encoding.md are in the types of
the operands but for one: the row count of DRW is a number, and the field `n` holds 0 to 15 (rule R83).
-/

namespace Sys2Proof

/-- The operands fit the fields of the word (rules R81, R83): the count of DRW is below 16. -/
def Instr.wellFormed : Instr → Bool
  | .drw _ _ n => decide (n < 16)
  | .cls | .ret | .jp _ | .call _ | .se _ _ | .sne _ _ | .seReg _ _ | .ldImm _ _ | .addImm _ _ | .ldReg _ _
  | .or _ _ | .and _ _ | .xor _ _ | .addReg _ _ | .sub _ _ | .shr _ _ | .subn _ _ | .shl _ _ | .sneReg _ _
  | .ldAddr _ | .jpOffset _ | .rnd _ _ | .skp _ | .sknp _ | .ldVxDt _ | .waitKey _ | .ldDtVx _ | .ldStVx _
  | .addIVx _ | .ldFont _ | .bcd _ | .storeRegs _ | .loadRegs _ => true

end Sys2Proof
end

