-- ==== Sys2Proof/Decode.lean ====
section
/-!
DEFINITION. The instruction decoder (rules R80 to R91 of spec/30_encoding.md): total, rejecting by name; the encoder; and
the opcode table of rule R84 as rows of match and mask.
-/

namespace Sys2Proof

/-- Why a word is no instruction: the groups of rule R90, and a stream that ends inside the word. -/
inductive Illegal where
  /-- 0nnn other than 00E0 and 00EE. -/
  | group0
  /-- 5xyN with N ≠ 0. -/
  | group5
  /-- 8xyN with N in 8, 9, A, B, C, D, F. -/
  | group8
  /-- 9xyN with N ≠ 0. -/
  | group9
  /-- ExKK with KK not 9E or A1. -/
  | groupE
  /-- FxKK with KK not one of the nine. -/
  | groupF
  /-- Fewer than two bytes are left. -/
  | truncated
  deriving DecidableEq, Repr

/-- `op[15:12]`, the primary dispatch key (rule R81). -/
def opKey (op : Word) : BitVec 4 := op.extractLsb' 12 4

/-- `x = op[11:8]` (rule R81). -/
def opX (op : Word) : Reg := (op.extractLsb' 8 4).toFin

/-- `y = op[7:4]` (rule R81). -/
def opY (op : Word) : Reg := (op.extractLsb' 4 4).toFin

/-- `n = op[3:0]` (rule R81). -/
def opN (op : Word) : BitVec 4 := op.extractLsb' 0 4

/-- `kk = op[7:0]` (rule R81). -/
def opKk (op : Word) : Byte := op.extractLsb' 0 8

/-- `nnn = op[11:0]` (rule R81). -/
def opNnn (op : Word) : Addr := op.extractLsb' 0 12

/-- The 8xyN group (rule R87). -/
def decode8 (op : Word) : Except Illegal Instr :=
  if opN op = 0x0#4 then .ok (.ldReg (opX op) (opY op))
  else if opN op = 0x1#4 then .ok (.or (opX op) (opY op))
  else if opN op = 0x2#4 then .ok (.and (opX op) (opY op))
  else if opN op = 0x3#4 then .ok (.xor (opX op) (opY op))
  else if opN op = 0x4#4 then .ok (.addReg (opX op) (opY op))
  else if opN op = 0x5#4 then .ok (.sub (opX op) (opY op))
  else if opN op = 0x6#4 then .ok (.shr (opX op) (opY op))
  else if opN op = 0x7#4 then .ok (.subn (opX op) (opY op))
  else if opN op = 0xE#4 then .ok (.shl (opX op) (opY op))
  else .error .group8

/-- The FxKK group (rule R87). -/
def decodeF (op : Word) : Except Illegal Instr :=
  if opKk op = 0x07#8 then .ok (.ldVxDt (opX op))
  else if opKk op = 0x0A#8 then .ok (.waitKey (opX op))
  else if opKk op = 0x15#8 then .ok (.ldDtVx (opX op))
  else if opKk op = 0x18#8 then .ok (.ldStVx (opX op))
  else if opKk op = 0x1E#8 then .ok (.addIVx (opX op))
  else if opKk op = 0x29#8 then .ok (.ldFont (opX op))
  else if opKk op = 0x33#8 then .ok (.bcd (opX op))
  else if opKk op = 0x55#8 then .ok (.storeRegs (opX op))
  else if opKk op = 0x65#8 then .ok (.loadRegs (opX op))
  else .error .groupF

/-- The dispatch of rule R87: an instruction, or the group of illegal words (rule R90) the word is in. -/
def decode (op : Word) : Except Illegal Instr :=
  if opKey op = 0x0#4 then
    if op = 0x00E0#16 then .ok .cls else if op = 0x00EE#16 then .ok .ret else .error .group0
  else if opKey op = 0x1#4 then .ok (.jp (opNnn op))
  else if opKey op = 0x2#4 then .ok (.call (opNnn op))
  else if opKey op = 0x3#4 then .ok (.se (opX op) (opKk op))
  else if opKey op = 0x4#4 then .ok (.sne (opX op) (opKk op))
  else if opKey op = 0x5#4 then
    if opN op = 0x0#4 then .ok (.seReg (opX op) (opY op)) else .error .group5
  else if opKey op = 0x6#4 then .ok (.ldImm (opX op) (opKk op))
  else if opKey op = 0x7#4 then .ok (.addImm (opX op) (opKk op))
  else if opKey op = 0x8#4 then decode8 op
  else if opKey op = 0x9#4 then
    if opN op = 0x0#4 then .ok (.sneReg (opX op) (opY op)) else .error .group9
  else if opKey op = 0xA#4 then .ok (.ldAddr (opNnn op))
  else if opKey op = 0xB#4 then .ok (.jpOffset (opNnn op))
  else if opKey op = 0xC#4 then .ok (.rnd (opX op) (opKk op))
  else if opKey op = 0xD#4 then .ok (.drw (opX op) (opY op) (opN op).toNat)
  else if opKey op = 0xE#4 then
    if opKk op = 0x9E#8 then .ok (.skp (opX op))
    else if opKk op = 0xA1#8 then .ok (.sknp (opX op))
    else .error .groupE
  else decodeF op

/-- The instruction word from the bytes at pc and pc + 1, high byte first (rule R66 of spec/20_memory.md). -/
def wordOfBytes (b0 b1 : Byte) : Word := b0 ++ b1

/-- The two bytes of a word in the order they lie in memory (rule R66). -/
def bytesOfWord (op : Word) : List Byte := [op.extractLsb' 8 8, op.extractLsb' 0 8]

/-- Decoding a byte stream: one instruction and the bytes after it. -/
def decodeBytes : List Byte → Except Illegal (Instr × List Byte)
  | b0 :: b1 :: rest =>
    match decode (wordOfBytes b0 b1) with
    | .ok i => .ok (i, rest)
    | .error e => .error e
  | _ => .error .truncated

/-- What the decoder reads from an instruction whose bits are `w`, laid out in memory as the hardware stores them. -/
def decodeTableWord (nbits w : Nat) : Option Instr :=
  match decodeBytes (bytesOfWord (BitVec.ofNat 16 (w % 2 ^ nbits))) with
  | .ok (i, _) => some i
  | .error _ => none

/-- The four bits of a register field (rule R83). -/
def regBits (r : Reg) : BitVec 4 := BitVec.ofFin r

/-- Format NNN (rule R82). -/
def encNnn (key : BitVec 4) (nnn : Addr) : Word := key ++ nnn

/-- Formats XKK and XFN (rule R82). -/
def encXkk (key : BitVec 4) (x : Reg) (kk : Byte) : Word := key ++ regBits x ++ kk

/-- Format XYN (rule R82). -/
def encXyn (key : BitVec 4) (x y : Reg) (n : BitVec 4) : Word := key ++ regBits x ++ regBits y ++ n

/-- The word of an instruction (rule R84). -/
def encode : Instr → Word
  | .cls => 0x00E0
  | .ret => 0x00EE
  | .jp nnn => encNnn 0x1 nnn
  | .call nnn => encNnn 0x2 nnn
  | .se x kk => encXkk 0x3 x kk
  | .sne x kk => encXkk 0x4 x kk
  | .seReg x y => encXyn 0x5 x y 0x0
  | .ldImm x kk => encXkk 0x6 x kk
  | .addImm x kk => encXkk 0x7 x kk
  | .ldReg x y => encXyn 0x8 x y 0x0
  | .or x y => encXyn 0x8 x y 0x1
  | .and x y => encXyn 0x8 x y 0x2
  | .xor x y => encXyn 0x8 x y 0x3
  | .addReg x y => encXyn 0x8 x y 0x4
  | .sub x y => encXyn 0x8 x y 0x5
  | .shr x y => encXyn 0x8 x y 0x6
  | .subn x y => encXyn 0x8 x y 0x7
  | .shl x y => encXyn 0x8 x y 0xE
  | .sneReg x y => encXyn 0x9 x y 0x0
  | .ldAddr nnn => encNnn 0xA nnn
  | .jpOffset nnn => encNnn 0xB nnn
  | .rnd x kk => encXkk 0xC x kk
  | .drw x y n => encXyn 0xD x y (BitVec.ofNat 4 n)
  | .skp x => encXkk 0xE x 0x9E
  | .sknp x => encXkk 0xE x 0xA1
  | .ldVxDt x => encXkk 0xF x 0x07
  | .waitKey x => encXkk 0xF x 0x0A
  | .ldDtVx x => encXkk 0xF x 0x15
  | .ldStVx x => encXkk 0xF x 0x18
  | .addIVx x => encXkk 0xF x 0x1E
  | .ldFont x => encXkk 0xF x 0x29
  | .bcd x => encXkk 0xF x 0x33
  | .storeRegs x => encXkk 0xF x 0x55
  | .loadRegs x => encXkk 0xF x 0x65

/-- One row of the opcode table: a word selects it when `op AND mask = value` (rule R84). -/
structure OpcodeRow where
  mnemonic : String
  value : Word
  mask : Word
  deriving DecidableEq, Repr

/-- The row of rule R84 that an instruction belongs to. -/
def Instr.row : Instr → OpcodeRow
  | .cls => ⟨"CLS", 0x00E0, 0xFFFF⟩
  | .ret => ⟨"RET", 0x00EE, 0xFFFF⟩
  | .jp _ => ⟨"JP", 0x1000, 0xF000⟩
  | .call _ => ⟨"CALL", 0x2000, 0xF000⟩
  | .se _ _ => ⟨"SE", 0x3000, 0xF000⟩
  | .sne _ _ => ⟨"SNE", 0x4000, 0xF000⟩
  | .seReg _ _ => ⟨"SE_REG", 0x5000, 0xF00F⟩
  | .ldImm _ _ => ⟨"LD_IMM", 0x6000, 0xF000⟩
  | .addImm _ _ => ⟨"ADD_IMM", 0x7000, 0xF000⟩
  | .ldReg _ _ => ⟨"LD_REG", 0x8000, 0xF00F⟩
  | .or _ _ => ⟨"OR", 0x8001, 0xF00F⟩
  | .and _ _ => ⟨"AND", 0x8002, 0xF00F⟩
  | .xor _ _ => ⟨"XOR", 0x8003, 0xF00F⟩
  | .addReg _ _ => ⟨"ADD_REG", 0x8004, 0xF00F⟩
  | .sub _ _ => ⟨"SUB", 0x8005, 0xF00F⟩
  | .shr _ _ => ⟨"SHR", 0x8006, 0xF00F⟩
  | .subn _ _ => ⟨"SUBN", 0x8007, 0xF00F⟩
  | .shl _ _ => ⟨"SHL", 0x800E, 0xF00F⟩
  | .sneReg _ _ => ⟨"SNE_REG", 0x9000, 0xF00F⟩
  | .ldAddr _ => ⟨"LD_ADDR", 0xA000, 0xF000⟩
  | .jpOffset _ => ⟨"JP_OFFSET", 0xB000, 0xF000⟩
  | .rnd _ _ => ⟨"RND", 0xC000, 0xF000⟩
  | .drw _ _ _ => ⟨"DRW", 0xD000, 0xF000⟩
  | .skp _ => ⟨"SKP", 0xE09E, 0xF0FF⟩
  | .sknp _ => ⟨"SKNP", 0xE0A1, 0xF0FF⟩
  | .ldVxDt _ => ⟨"LD_VX_DT", 0xF007, 0xF0FF⟩
  | .waitKey _ => ⟨"WAIT_KEY", 0xF00A, 0xF0FF⟩
  | .ldDtVx _ => ⟨"LD_DT_VX", 0xF015, 0xF0FF⟩
  | .ldStVx _ => ⟨"LD_ST_VX", 0xF018, 0xF0FF⟩
  | .addIVx _ => ⟨"ADD_I_VX", 0xF01E, 0xF0FF⟩
  | .ldFont _ => ⟨"LD_FONT", 0xF029, 0xF0FF⟩
  | .bcd _ => ⟨"BCD", 0xF033, 0xF0FF⟩
  | .storeRegs _ => ⟨"STORE_REGS", 0xF055, 0xF0FF⟩
  | .loadRegs _ => ⟨"LOAD_REGS", 0xF065, 0xF0FF⟩

/-- The 34 rows of rule R84, in its order, each through an instruction of the row. -/
def opcodeTable : List OpcodeRow :=
  ([.cls, .ret, .jp 0, .call 0, .se 0 0, .sne 0 0, .seReg 0 0, .ldImm 0 0, .addImm 0 0, .ldReg 0 0, .or 0 0,
    .and 0 0, .xor 0 0, .addReg 0 0, .sub 0 0, .shr 0 0, .subn 0 0, .shl 0 0, .sneReg 0 0, .ldAddr 0,
    .jpOffset 0, .rnd 0 0, .drw 0 0 0, .skp 0, .sknp 0, .ldVxDt 0, .waitKey 0, .ldDtVx 0, .ldStVx 0,
    .addIVx 0, .ldFont 0, .bcd 0, .storeRegs 0, .loadRegs 0] : List Instr).map Instr.row

/-- `op` selects the row (rule R84). -/
def OpcodeRow.selects (r : OpcodeRow) (op : Word) : Bool := op &&& r.mask == r.value

end Sys2Proof
end

