-- ==== Sys2Proof/Config.lean ====
section
/-!
DEFINITION. What an implementation fixes, and the free value. The three parameters the spec leaves open (rule R9 of
spec/00_scope.md) and the byte RND draws (rule R10) are opaque: no proof can see their value, so every claim holds for
every value. The font table is a constant with the default of rule R68 of spec/20_memory.md.
-/

namespace Sys2Proof

/-- `VF_DEST_POLICY` (rules R9, R131): which write to register 15 lands last when a flag-writing ALU instruction has x = F. -/
inductive VfPolicy where
  /-- VF ends as the flag; the spec's default, used by its test vectors. -/
  | flagWins
  /-- VF ends as the result. -/
  | resultWins
  deriving DecidableEq, Repr, Inhabited

/-- One less than `HISTORY_CAPACITY`: any natural number (log 5). -/
opaque Config.historyCapacityPred : Nat

/-- `HISTORY_CAPACITY`, the largest number of archived states: at least 1, otherwise open (rule R9; log 5). -/
def Config.historyCapacity : Nat := Config.historyCapacityPred + 1

/-- One less than `TIMER_DIVIDER`: any number 0 to 254 (log 6). -/
opaque Config.timerDividerPred : Fin 255

/-- `TIMER_DIVIDER`, the number of `advance_timers` commands per decrement: 1 to 255, otherwise open (rule R9; log 6). -/
def Config.timerDivider : Nat := Config.timerDividerPred.val + 1

/-- `VF_DEST_POLICY`: open (rules R9, R131; log 7). -/
opaque Config.vfDestPolicy : VfPolicy

/-- The byte drawn by the k-th RND: free, one fresh value for each execution (rules R10, R133; log 4). -/
opaque Config.draw : Nat → Byte

/-- `FONT`: sixteen glyphs of five bytes, glyph d at 5 × d (rule R68; the bytes are general knowledge, log 8). -/
def Config.font : List Byte :=
  [0xF0, 0x90, 0x90, 0x90, 0xF0] ++
  ([0x20, 0x60, 0x20, 0x20, 0x70] ++
  ([0xF0, 0x10, 0xF0, 0x80, 0xF0] ++
  ([0xF0, 0x10, 0xF0, 0x10, 0xF0] ++
  ([0x90, 0x90, 0xF0, 0x10, 0x10] ++
  ([0xF0, 0x80, 0xF0, 0x10, 0xF0] ++
  ([0xF0, 0x80, 0xF0, 0x90, 0xF0] ++
  ([0xF0, 0x10, 0x20, 0x40, 0x40] ++
  ([0xF0, 0x90, 0xF0, 0x90, 0xF0] ++
  ([0xF0, 0x90, 0xF0, 0x10, 0xF0] ++
  ([0xF0, 0x90, 0xF0, 0x90, 0x90] ++
  ([0xE0, 0x90, 0xE0, 0x90, 0xE0] ++
  ([0xF0, 0x80, 0x80, 0x80, 0xF0] ++
  ([0xE0, 0x90, 0x90, 0x90, 0xE0] ++
  ([0xF0, 0x80, 0xF0, 0x80, 0xF0] ++
   [0xF0, 0x80, 0xF0, 0x80, 0x80]))))))))))))))

end Sys2Proof
end

