-- ==== Sys2Proof/Machine/State.lean ====
section
/-!
DEFINITION. The state as plain data: the Machine State S of rule R30 of spec/10_state.md (what is archived and restored),
and the engine state around it: the History Buffer (rule R46), the fault latch (rule R47), and three fields of the model's
own, the host's commands still to come, the answer last given and the counter of RND's draws (logs 1, 2, 4).
-/

namespace Sys2Proof.Machine

/-- Memory as (address, byte) pairs in canonical form (Memory.wf in Machine/Ops.lean). -/
abbrev Memory := List Host.Cell

/-- `fb[r][c]`: 32 rows of 64 one-bit pixels (rule R43). -/
abbrev FrameBuffer := Vector (Vector Bool 64) 32

/-- The Machine State S: exactly the thirteen fields of rule R30. -/
structure MachineState where
  /-- V0 to VF (rule R32); VF is also the flag (rule R33). -/
  V : Vector Byte 16
  /-- The address register (rule R36). -/
  I : Word
  /-- The program counter (rule R34). -/
  pc : Word
  /-- The number of occupied stack slots (rule R37). -/
  SP : Byte
  /-- The return stack (rule R37). -/
  stack : Vector Word 16
  /-- The 4096 bytes of memory (rule R42). -/
  mem : Memory
  /-- The frame buffer (rule R43). -/
  fb : FrameBuffer
  /-- `draw_flag` (rule R41). -/
  drawFlag : Bool
  /-- The delay timer (rule R38). -/
  DT : Byte
  /-- The sound timer (rule R38). -/
  ST : Byte
  /-- The pacing counter of the timers (rule R39). -/
  DC : Byte
  /-- Which keys are held (rule R44). -/
  keys : Vector Bool 16
  /-- `wait_reg`: the register awaiting a key; AwaitingKey exactly when it is set (rule R45). -/
  waitReg : Option Reg
  deriving DecidableEq, Repr

/-- What a BoundsError is about (rule R201 of spec/60_exceptions.md): MEM, STACK, KEY. -/
inductive BoundsKind where
  | mem
  | stack
  | key
  deriving DecidableEq, Repr

/-- The records of the two fatal errors (rule R201 of spec/60_exceptions.md). `exec` answers the second as its outcome `fault`
(rule R174's `Fault(record)`); the Cycle Driver takes either: it latches the record and answers it to the host (rule R207),
which is a next state of `step` (log 3). -/
inductive Fault where
  /-- Raised by the Cycle Driver at dispatch when the word fetched is illegal (rule R202). Safe: the spec names it. -/
  | decodeError (opcode pc : Word)
  /-- Raised at fetch by the Cycle Driver and by CALL, RET, SKP, SKNP, BCD, STORE_REGS, LOAD_REGS and DRW (rule R203).
  Safe: the spec names it. -/
  | boundsError (what : BoundsKind) (index : Word)
  deriving DecidableEq, Repr

/-- Why an instruction has no meaning. -/
inductive Refusal where
  /-- Answered only by an arm of `exec` whose instruction has no meaning yet; no arm is left so. Safe. -/
  | notModelled (mnemonic : String)
  deriving DecidableEq, Repr

/-- The host's commands (rule R170 of spec/47_cycle_driver.md). The key is a 4-bit field (rule R180). -/
inductive Command where
  | reset
  | loadProgram (bytes : List Byte)
  | advanceCpu
  | advanceTimers
  | keyPress (k : Reg)
  | keyRelease (k : Reg)
  | rewind
  | currentFrame
  deriving DecidableEq, Repr

/-- The answers to commands (rules R171 to R184). -/
inductive Response where
  | ok
  /-- The command raised a fatal error (rule R173). -/
  | fault (r : Fault)
  /-- The engine is faulted and the command was refused (rule R184). -/
  | refused
  /-- The program is too long; not fatal (rules R181, R204). -/
  | loadError (length : Nat)
  /-- The answer of `current_frame` (rule R183). -/
  | frame (f : Option FrameBuffer)
  deriving DecidableEq, Repr

/-- The engine state: S, the History Buffer, the fault latch (rules R46, R47), and the model's own `inbox`, `response`
and `draws`. -/
structure State where
  /-- The live Machine State. -/
  S : MachineState
  /-- Archived Machine States, oldest first (rule R46). -/
  history : List MachineState
  /-- The fault latch (rule R47). -/
  fault : Option Fault
  /-- The model's own: the host's next commands, oldest first (log 1). -/
  inbox : List Command
  /-- The model's own: the answer of the last command (log 2). -/
  response : Option Response
  /-- The model's own: how many bytes RND has drawn (log 4). -/
  draws : Nat
  deriving DecidableEq, Repr

/-- What `exec` and `step` answer. -/
abbrev Result := Host.Outcome State Fault Refusal

/-- S after reset (rule R49): memory lists nothing, so that it reads as the font table and zeros (Memory.unlisted). -/
def MachineState.reset : MachineState where
  V := Vector.replicate 16 0
  I := 0
  pc := 0x200
  SP := 0
  stack := Vector.replicate 16 0
  mem := []
  fb := Vector.replicate 32 (Vector.replicate 64 false)
  drawFlag := false
  DT := 0
  ST := 0
  DC := 0
  keys := Vector.replicate 16 false
  waitReg := none

/-- The engine right after reset (rules R49, R230): Running, nothing archived, no fault; of the model's own fields, no
command waits, none has been answered, and no byte has been drawn. -/
def State.reset : State where
  S := MachineState.reset
  history := []
  fault := none
  inbox := []
  response := none
  draws := 0

end Sys2Proof.Machine
end

