-- ==== Sys2Proof/Machine/Ops.lean ====
section
/-!
DEFINITION. The named operations: memory (rules R60 to R65, R68 of spec/20_memory.md), the register file, pc, I, the stack
(spec/10_state.md), the frame buffer (spec/44_display.md), and taking a fault (rules R173, R207) with the one way out of
it, reset (rules R208, R230).
-/

namespace Sys2Proof.Machine

/-! ## Memory -/

/-- Number of bytes of memory: addresses 0x000 to 0xFFF (rule R60). -/
def memorySize : Nat := 4096

/-- What an address that memory does not list reads as: the reset contents, the font table at 0x000 to 0x04F and 0 elsewhere
(rules R42, R68). -/
def Memory.unlisted (a : Nat) : Byte := Config.font.getD a 0

/-- The canonical form: addresses strictly rising and below 4096, no entry equal to what an unlisted address reads as. -/
def Memory.wf : Memory → Bool
  | [] => true
  | (a, b) :: m =>
    decide (a < memorySize) && (b != Memory.unlisted a) && m.all (fun c => decide (a < c.1)) && Memory.wf m

/-- The byte at an address. -/
def Memory.read : Memory → Nat → Byte
  | [], a => Memory.unlisted a
  | (a', b) :: m, a => if a = a' then b else Memory.read m a

/-- Memory without an entry at `a`. -/
def Memory.erase (m : Memory) (a : Nat) : Memory := m.filter (fun c => c.1 != a)

/-- An entry put in its place by address. -/
def Memory.insertCell : Memory → Nat → Byte → Memory
  | [], a, b => [(a, b)]
  | c :: m, a, b => if a < c.1 then (a, b) :: c :: m else c :: Memory.insertCell m a b

/-- One byte written, keeping the canonical form: the value an unlisted address reads as is not listed. -/
def Memory.write (m : Memory) (a : Nat) (b : Byte) : Memory :=
  if b = Memory.unlisted a then Memory.erase m a else Memory.insertCell (Memory.erase m a) a b

/-- `n` bytes from `a` on, in address order. -/
def Memory.readBytes (m : Memory) (a : Nat) : Nat → List Byte
  | 0 => []
  | n + 1 => Memory.read m a :: Memory.readBytes m (a + 1) n

/-- The bytes `bs` stored from `a` on. -/
def Memory.writeBytes (m : Memory) (a : Nat) : List Byte → Memory
  | [] => m
  | b :: bs => Memory.writeBytes (Memory.write m a b) (a + 1) bs

/-- The lowest invalid address of an access from `a` that leaves memory (rule R62): `a` itself when it is above 0xFFF, else
0x1000. -/
def lowestInvalid (a : Nat) : Nat := if 0xFFF < a then a else 0x1000

/-- The fault of an access of `n` bytes from `a`, if it has one (rules R62, R63): the whole extent is checked; an access of no
bytes touches nothing. -/
def extentFault (a n : Nat) : Option Fault :=
  if n ≠ 0 ∧ 0xFFF < a + n - 1 then some (.boundsError .mem (BitVec.ofNat 16 (lowestInvalid a))) else none

/-- `MemRead(a, n)` (rule R62). -/
def memRead (m : Memory) (a n : Nat) : Except Fault (List Byte) :=
  match extentFault a n with
  | some f => .error f
  | none => .ok (Memory.readBytes m a n)

/-- `MemWrite(a, n, bs)`, n the length of `bs` (rule R63): a write that fails stores nothing. -/
def memWrite (m : Memory) (a : Nat) (bs : List Byte) : Except Fault Memory :=
  match extentFault a bs.length with
  | some f => .error f
  | none => .ok (Memory.writeBytes m a bs)

/-! ## The fields of S -/

/-- `V[r]` (rule R32). -/
def MachineState.readV (m : MachineState) (r : Reg) : Byte := m.V[r.val]

/-- The whole register file written (rules R131, R145). -/
def MachineState.setV (m : MachineState) (V : Vector Byte 16) : MachineState := { m with V := V }

/-- `V[r] <- b` (rule R32). -/
def MachineState.writeV (m : MachineState) (r : Reg) (b : Byte) : MachineState := m.setV (m.V.set r.val b r.isLt)

/-- `I <- w` (rule R36). -/
def MachineState.setI (m : MachineState) (w : Word) : MachineState := { m with I := w }

/-- `pc <- w` (rule R34). -/
def MachineState.setPc (m : MachineState) (w : Word) : MachineState := { m with pc := w }

/-- `pc <- pc + 2`, the default advance (rules R15, R34). -/
def MachineState.advance (m : MachineState) : MachineState := m.setPc (m.pc + 2)

/-- A skip: `pc + 4` when the condition holds, else `pc + 2` (rule R110). -/
def MachineState.skipIf (m : MachineState) (c : Bool) : MachineState := m.setPc (if c then m.pc + 4 else m.pc + 2)

/-- `mem <- mem'` (rule R42). -/
def MachineState.setMem (m : MachineState) (mem' : Memory) : MachineState := { m with mem := mem' }

/-- The frame buffer replaced and `draw_flag` set, as CLS and DRW do (rule R41). -/
def MachineState.setFb (m : MachineState) (f : FrameBuffer) : MachineState := { m with fb := f, drawFlag := true }

/-- `draw_flag <- 0` (rule R183). -/
def MachineState.clearDrawFlag (m : MachineState) : MachineState := { m with drawFlag := false }

/-- `DT <- b` (rule R38). -/
def MachineState.setDT (m : MachineState) (b : Byte) : MachineState := { m with DT := b }

/-- `ST <- b` (rule R38). -/
def MachineState.setST (m : MachineState) (b : Byte) : MachineState := { m with ST := b }

/-- `DC <- b` (rule R39). -/
def MachineState.setDC (m : MachineState) (b : Byte) : MachineState := { m with DC := b }

/-- Whether key `k` is held (rule R44). -/
def MachineState.keyHeld (m : MachineState) (k : Reg) : Bool := m.keys[k.val]

/-- `keys[k] <- b` (rule R44). -/
def MachineState.setKey (m : MachineState) (k : Reg) (b : Bool) : MachineState :=
  { m with keys := m.keys.set k.val b k.isLt }

/-- `keys[0..15]` all 0 (rule R192). -/
def MachineState.zeroKeys (m : MachineState) : MachineState := { m with keys := Vector.replicate 16 false }

/-- `wait_reg <- w` (rule R45). -/
def MachineState.setWait (m : MachineState) (w : Option Reg) : MachineState := { m with waitReg := w }

/-! ## The stack -/

/-- The fault of a stack index outside the 16 slots: it reports SP (rule R203). -/
def stackFault (sp : Byte) : Fault := .boundsError .stack (zext8 sp)

/-- Pushing a return address (rule R102): a full stack faults, otherwise `stack[SP] <- a` and `SP <- SP + 1`. -/
def MachineState.push (m : MachineState) (a : Word) : Except Fault MachineState :=
  if h : m.SP.toNat < 16 then .ok { m with stack := m.stack.set m.SP.toNat a h, SP := m.SP + 1 }
  else .error (stackFault m.SP)

/-- Popping one (rule R103): an empty stack faults, otherwise `SP <- SP - 1` and the address is `stack[SP - 1]`, which keeps its
value. SP above 16, which no run reaches (rule R50), indexes no slot and faults the same way (log 11). -/
def MachineState.pop (m : MachineState) : Except Fault (MachineState × Word) :=
  if h : 0 < m.SP.toNat ∧ m.SP.toNat ≤ 16 then
    .ok ({ m with SP := m.SP - 1 }, m.stack[m.SP.toNat - 1]'(by omega))
  else .error (stackFault m.SP)

/-! ## The frame buffer -/

/-- `fb[r][c]` (rule R43). -/
def FrameBuffer.get (f : FrameBuffer) (r : Fin 32) (c : Fin 64) : Bool := (f[r.val])[c.val]

/-- `fb[r][c] <- b` (rule R43). -/
def FrameBuffer.put (f : FrameBuffer) (r : Fin 32) (c : Fin 64) (b : Bool) : FrameBuffer :=
  f.set r.val ((f[r.val]).set c.val b c.isLt) r.isLt

/-- All pixels 0 (rule R150). -/
def FrameBuffer.clear : FrameBuffer := Vector.replicate 32 (Vector.replicate 64 false)

/-- One set sprite bit drawn: the pixel is inverted, and the collision flag is raised if it was set (rule R152). -/
def plot (p : FrameBuffer × Bool) (r : Fin 32) (c : Fin 64) : FrameBuffer × Bool :=
  (FrameBuffer.put p.1 r c (!(FrameBuffer.get p.1 r c)), p.2 || FrameBuffer.get p.1 r c)

/-- Sprite column `j` of a row byte, bit 7 leftmost (rule R151), at column `(cx + j) mod 64` of frame row `r mod 32` (rule R152). -/
def drawColumn (b : Byte) (cx r : Nat) (p : FrameBuffer × Bool) (j : Nat) : FrameBuffer × Bool :=
  if b.getLsbD (7 - j) then plot p (Fin.ofNat 32 r) (Fin.ofNat 64 (cx + j)) else p

/-- One row of a sprite, its eight columns from left to right (rule R152). -/
def drawByte (b : Byte) (cx r : Nat) (p : FrameBuffer × Bool) : FrameBuffer × Bool :=
  [0, 1, 2, 3, 4, 5, 6, 7].foldl (drawColumn b cx r) p

/-- The rows of a sprite from frame row `r` on (rule R152). -/
def drawRows : List Byte → Nat → Nat → FrameBuffer × Bool → FrameBuffer × Bool
  | [], _, _, p => p
  | b :: bs, cx, r, p => drawRows bs cx (r + 1) (drawByte b cx r p)

/-! ## The engine state -/

/-- The result of an instruction that completes: S replaced, the rest of the engine as it was (rule R174). -/
def State.install (s : State) (m : MachineState) : Result := .next { s with S := m }

/-- The command's answer (rule R170). -/
def State.answer (s : State) (r : Response) : State := { s with response := some r }

/-- Taking a fatal error (rules R173, R207): S and the history stay as they are, the record is latched and answered. There is no
handler, vector or saved register. -/
def State.takeFault (s : State) (f : Fault) : State := { s with fault := some f, response := some (.fault f) }

/-- The one way out of the faulted condition, and the only return there is (rules R208, R230): the reset state. The host's remaining
commands and the count of draws are not the engine's and stay (log 12). -/
def State.resetEngine (s : State) : State :=
  { State.reset with inbox := s.inbox, draws := s.draws, response := some .ok }

end Sys2Proof.Machine
end

