-- ==== Sys2Proof/Machine/History.lean ====
section
/-!
DEFINITION. The History Buffer: record and rewind (spec/48_history_rewind.md).
-/

namespace Sys2Proof.Machine

/-- `record(m)` at a capacity (rules R191, R192): the keys are zeroed in the archived copy; when the buffer is full the oldest entry
is evicted first. -/
def recordWith (capacity : Nat) (h : List MachineState) (m : MachineState) : List MachineState :=
  (if h.length = capacity then h.tail else h) ++ [m.zeroKeys]

/-- `record` of the machine. -/
def record (h : List MachineState) (m : MachineState) : List MachineState := recordWith Config.historyCapacity h m

/-- The engine with a Machine State archived. -/
def State.archive (s : State) (m : MachineState) : State := { s with history := record s.history m }

/-- `rewind()` of an unfaulted engine (rules R193, R194): the newest archived state becomes the live one, or nothing moves. -/
def State.rewind (s : State) : State :=
  match s.history.getLast? with
  | none => s.answer .ok
  | some m => State.answer { s with S := m, history := s.history.dropLast } .ok

end Sys2Proof.Machine
end

