-- ==== Sys2Proof/Machine/Commands.lean ====
section
/-!
DEFINITION. The host's commands other than advance_cpu (spec/47_cycle_driver.md): advance_timers, key_press, key_release,
load_program, current_frame; and the refusal of commands by a faulted engine (rule R184).
-/

namespace Sys2Proof.Machine

/-- A timer decremented, saturating at 0 (rules R38, R176). -/
def saturatingDec (b : Byte) : Byte := if b = 0 then 0 else b - 1

/-- `advance_timers()` on S with the divider `k` (rule R176): DC is reloaded at zero and counts down; reaching zero decrements both
timers. -/
def timerTickWith (k : Nat) (m : MachineState) : MachineState :=
  let c := (if m.DC = 0 then k else m.DC.toNat) - 1
  if c = 0 then ((m.setDC (BitVec.ofNat 8 c)).setDT (saturatingDec m.DT)).setST (saturatingDec m.ST)
  else m.setDC (BitVec.ofNat 8 c)

/-- `advance_timers()` on S. -/
def timerTick (m : MachineState) : MachineState := timerTickWith Config.timerDivider m

/-- The awaited register, if any, receives the key, and the wait ends (rule R178). -/
def MachineState.endWait (m : MachineState) (k : Reg) : MachineState :=
  match m.waitReg with
  | some r => (m.writeV r (BitVec.ofNat 8 k.val)).setWait none
  | none => m

/-- `key_press(k)` on S (rule R178). -/
def pressKey (k : Reg) (m : MachineState) : MachineState := (m.setKey k true).endWait k

/-- `key_release(k)` on S (rule R179). -/
def releaseKey (k : Reg) (m : MachineState) : MachineState := m.setKey k false

/-- Where programs are loaded (rule R8). -/
def programBase : Nat := 0x200

/-- The largest program (rule R8): 4096 − 512 bytes. -/
def programMax : Nat := 3584

/-- `load_program(bytes)` of an unfaulted engine (rule R181): only memory is written; a program too long changes nothing. -/
def State.loadProgram (s : State) (bytes : List Byte) : State :=
  if programMax < bytes.length then s.answer (.loadError bytes.length)
  else State.answer { s with S := s.S.setMem (Memory.writeBytes s.S.mem programBase bytes) } .ok

/-- `current_frame()` (rules R183, R184): the frame if `draw_flag` is set, which it clears unless the engine is faulted. -/
def State.currentFrame (s : State) : State :=
  if s.S.drawFlag then
    State.answer (if s.fault.isSome then s else { s with S := s.S.clearDrawFlag }) (.frame (some s.S.fb))
  else s.answer (.frame none)

/-- A command that only rewrites S and answers Ok. -/
def State.modifyS (s : State) (f : MachineState → MachineState) : State := State.answer { s with S := f s.S } .ok

/-- A faulted engine refuses the command and changes nothing (rule R184). -/
def State.unlessFaulted (s : State) (f : State → State) : State :=
  if s.fault.isSome then s.answer .refused else f s

end Sys2Proof.Machine
end

