-- ==== Sys2Proof/Machine/Operands.lean ====
section
/-!
DEFINITION. The operand forms (rule R83 of spec/30_encoding.md, rule R146 of spec/43_index_memory.md): the key a register
names, the block of registers V0 to Vx, the bytes at I, and the digits of BCD.
-/

namespace Sys2Proof.Machine

/-- The key numbered by a register (rules R115, R116): a value above 15 is no key and faults. -/
def keyOperand (b : Byte) : Except Fault Reg :=
  if h : b.toNat < 16 then .ok ⟨b.toNat, h⟩ else .error (.boundsError .key (zext8 b))

/-- The address in I, as an unbounded number (rule R146). -/
def MachineState.dataAddr (m : MachineState) : Nat := m.I.toNat

/-- The bytes of V0 to Vx, x included (rule R144). -/
def MachineState.regBlock (m : MachineState) (x : Reg) : List Byte := m.V.toList.take (x.val + 1)

/-- Bytes written to the registers from index `i` on, one each (rule R145). -/
def writeRegsFrom (V : Vector Byte 16) (i : Nat) : List Byte → Vector Byte 16
  | [] => V
  | b :: bs => writeRegsFrom (V.setIfInBounds i b) (i + 1) bs

/-- The bytes loaded into V0, V1, ... (rule R145). -/
def MachineState.setRegBlock (m : MachineState) (bs : List Byte) : MachineState := m.setV (writeRegsFrom m.V 0 bs)

/-- Hundreds, tens and units of a byte (rule R143). -/
def bcdDigits (b : Byte) : List Byte :=
  [BitVec.ofNat 8 (b.toNat / 100), BitVec.ofNat 8 (b.toNat / 10 % 10), BitVec.ofNat 8 (b.toNat % 10)]

/-- `V0 + nnn`, not masked (rule R104). -/
def MachineState.offsetTarget (m : MachineState) (nnn : Addr) : Word := zext12 nnn + zext8 (m.readV 0)

/-- The address of the glyph of a digit, five bytes each, unmasked (rule R142). -/
def glyphAddr (b : Byte) : Word := BitVec.ofNat 16 (5 * b.toNat)

end Sys2Proof.Machine
end

