-- ==== Sys2Proof/Machine/ControlFlow.lean ====
section
/-!
DEFINITION. Control transfer: JP, CALL, RET, JP_OFFSET (spec/40_control_flow.md). None of the four adds 2 to the pc it
writes, and no target is checked (rule R100).
-/

namespace Sys2Proof.Machine

/-- JP (rule R101). -/
def execJp (nnn : Addr) (s : State) : Result := s.install (s.S.setPc (zext12 nnn))

/-- CALL (rule R102). -/
def execCall (nnn : Addr) (s : State) : Result :=
  match s.S.push (s.S.pc + 2) with
  | .ok m => s.install (m.setPc (zext12 nnn))
  | .error f => .fault f

/-- RET (rule R103). -/
def execRet (s : State) : Result :=
  match s.S.pop with
  | .ok (m, target) => s.install (m.setPc target)
  | .error f => .fault f

/-- JP_OFFSET (rule R104). -/
def execJpOffset (nnn : Addr) (s : State) : Result := s.install (s.S.setPc (s.S.offsetTarget nnn))

end Sys2Proof.Machine
end

