-- ==== Sys2Proof/Machine/Display.lean ====
section
/-!
DEFINITION. Frame-buffer instructions: CLS, DRW (spec/44_display.md).
-/

namespace Sys2Proof.Machine

/-- CLS (rule R150). -/
def execCls (s : State) : Result := s.install (s.S.setFb FrameBuffer.clear).advance

/-- DRW (rule R152): coordinates and sprite are read first; then the picture, the collision flag in VF, `draw_flag` and pc. -/
def execDrw (x y : Reg) (n : Nat) (s : State) : Result :=
  match memRead s.S.mem s.S.dataAddr n with
  | .ok rows =>
    let p := drawRows rows (s.S.readV x).toNat (s.S.readV y).toNat (s.S.fb, false)
    s.install ((s.S.setFb p.1).writeV 15 (flagByte p.2)).advance
  | .error f => .fault f

end Sys2Proof.Machine
end

