-- ==== Sys2Proof/Machine/IndexMemory.lean ====
section
/-!
DEFINITION. Address register and memory: LD_ADDR, ADD_I_VX, LD_FONT, BCD, STORE_REGS, LOAD_REGS
(spec/43_index_memory.md). The memory instructions leave I unchanged and check the whole extent before anything is
written (rule R146).
-/

namespace Sys2Proof.Machine

/-- LD_ADDR (rule R140). -/
def execLdAddr (nnn : Addr) (s : State) : Result := s.install (s.S.setI (zext12 nnn)).advance

/-- ADD_I_VX (rule R141): wraps at 16 bits, no flag. -/
def execAddIVx (x : Reg) (s : State) : Result := s.install (s.S.setI (s.S.I + zext8 (s.S.readV x))).advance

/-- LD_FONT (rule R142). -/
def execLdFont (x : Reg) (s : State) : Result := s.install (s.S.setI (glyphAddr (s.S.readV x))).advance

/-- Bytes stored at I, then pc + 2; a store that leaves memory faults and stores nothing (rule R63). -/
def State.storeAtI (s : State) (bs : List Byte) : Result :=
  match memWrite s.S.mem s.S.dataAddr bs with
  | .ok mem' => s.install (s.S.setMem mem').advance
  | .error f => .fault f

/-- BCD (rule R143). -/
def execBcd (x : Reg) (s : State) : Result := s.storeAtI (bcdDigits (s.S.readV x))

/-- STORE_REGS (rule R144). -/
def execStoreRegs (x : Reg) (s : State) : Result := s.storeAtI (s.S.regBlock x)

/-- LOAD_REGS (rule R145). -/
def execLoadRegs (x : Reg) (s : State) : Result :=
  match memRead s.S.mem s.S.dataAddr (x.val + 1) with
  | .ok bs => s.install (s.S.setRegBlock bs).advance
  | .error f => .fault f

end Sys2Proof.Machine
end

