-- ==== Sys2Proof/Machine/Flags.lean ====
section
/-!
DEFINITION. The flag computations of the five flag-writing ALU instructions (rules R126 to R130, R134 of
spec/42_load_alu.md), each an exact computation on naturals narrowed at the end, and the write-back of result and flag
(rule R131).
-/

namespace Sys2Proof.Machine

/-- What a flag-writing ALU instruction produces: the result for Vx and the flag for VF (rule R131). -/
structure AluOut where
  result : Byte
  flag : Bool
  deriving DecidableEq, Repr

/-- Addition with carry (rule R126). -/
def addOut (a b : Byte) : AluOut :=
  let sum := a.toNat + b.toNat
  ⟨BitVec.ofNat 8 (sum % 256), decide (255 < sum)⟩

/-- Subtraction with not-borrow (rules R127, R129). -/
def subOut (a b : Byte) : AluOut :=
  ⟨BitVec.ofNat 8 ((a.toNat + 256 - b.toNat) % 256), decide (b.toNat ≤ a.toNat)⟩

/-- Shift right one place, the flag the bit shifted out (rule R128). -/
def shrOut (a : Byte) : AluOut := ⟨BitVec.ofNat 8 (a.toNat / 2), a.getLsbD 0⟩

/-- Shift left one place, the flag the overflow of the doubling (rule R130). -/
def shlOut (a : Byte) : AluOut :=
  let d := a.toNat * 2
  ⟨BitVec.ofNat 8 (d % 256), decide (255 < d)⟩

/-- `writeback(x, result, flag)` on the register file under a policy (rule R131): the order of the two writes matters only when
x = F. -/
def writebackWith (policy : VfPolicy) (V : Vector Byte 16) (x : Reg) (o : AluOut) : Vector Byte 16 :=
  match policy with
  | .flagWins => (V.set x.val o.result x.isLt).set 15 (flagByte o.flag)
  | .resultWins => (V.set 15 (flagByte o.flag)).set x.val o.result x.isLt

/-- `writeback` of the machine. Where x ≠ F the policy plays no part (rule R131), and none is consulted. -/
def writeback (m : MachineState) (x : Reg) (o : AluOut) : MachineState :=
  m.setV (if x = 15 then writebackWith Config.vfDestPolicy m.V x o else writebackWith .flagWins m.V x o)

end Sys2Proof.Machine
end

