-- ==== Sys2Proof/Machine/LoadAlu.lean ====
section
/-!
DEFINITION. Register loads and ALU: LD_IMM, ADD_IMM, LD_REG, OR, AND, XOR, ADD_REG, SUB, SHR, SUBN, SHL, RND
(spec/42_load_alu.md). Every operand is read before anything is written (rule R132); none of them can fault; each ends with
pc + 2.
-/

namespace Sys2Proof.Machine

/-- A plain result for Vx, without a flag. -/
def State.finishV (s : State) (x : Reg) (b : Byte) : Result := s.install (s.S.writeV x b).advance

/-- A result for Vx and a flag for VF (rule R131). -/
def State.finishAlu (s : State) (x : Reg) (o : AluOut) : Result := s.install (writeback s.S x o).advance

/-- LD_IMM (rule R120). -/
def execLdImm (x : Reg) (kk : Byte) (s : State) : Result := s.finishV x kk

/-- ADD_IMM (rule R121): wraps, no flag. -/
def execAddImm (x : Reg) (kk : Byte) (s : State) : Result := s.finishV x (s.S.readV x + kk)

/-- LD_REG (rule R122). -/
def execLdReg (x y : Reg) (s : State) : Result := s.finishV x (s.S.readV y)

/-- OR (rule R123): VF unchanged. -/
def execOr (x y : Reg) (s : State) : Result := s.finishV x (s.S.readV x ||| s.S.readV y)

/-- AND (rule R124): VF unchanged. -/
def execAnd (x y : Reg) (s : State) : Result := s.finishV x (s.S.readV x &&& s.S.readV y)

/-- XOR (rule R125): VF unchanged. -/
def execXor (x y : Reg) (s : State) : Result := s.finishV x (s.S.readV x ^^^ s.S.readV y)

/-- ADD_REG (rule R126). -/
def execAddReg (x y : Reg) (s : State) : Result := s.finishAlu x (addOut (s.S.readV x) (s.S.readV y))

/-- SUB (rule R127): Vx − Vy. -/
def execSub (x y : Reg) (s : State) : Result := s.finishAlu x (subOut (s.S.readV x) (s.S.readV y))

/-- SHR (rule R128): Vx in place; the field y selects nothing. -/
def execShr (x _y : Reg) (s : State) : Result := s.finishAlu x (shrOut (s.S.readV x))

/-- SUBN (rule R129): Vy − Vx. -/
def execSubn (x y : Reg) (s : State) : Result := s.finishAlu x (subOut (s.S.readV y) (s.S.readV x))

/-- SHL (rule R130): Vx in place; the field y selects nothing. -/
def execShl (x _y : Reg) (s : State) : Result := s.finishAlu x (shlOut (s.S.readV x))

/-- RND (rule R133): the draw is the free value `Config.draw` at the counter, which the instruction advances, so that every execution
draws afresh (log 4). -/
def execRnd (x : Reg) (kk : Byte) (s : State) : Result :=
  State.finishV { s with draws := s.draws + 1 } x (Config.draw s.draws &&& kk)

end Sys2Proof.Machine
end

