-- ==== Sys2Proof/Machine/Skips.lean ====
section
/-!
DEFINITION. Conditional skips: SE, SNE, SE_REG, SNE_REG, SKP, SKNP (spec/41_skips.md). A skip is complete in the one
instruction and writes nothing but pc (rule R110).
-/

namespace Sys2Proof.Machine

/-- SE (rule R111). -/
def execSe (x : Reg) (kk : Byte) (s : State) : Result := s.install (s.S.skipIf (s.S.readV x == kk))

/-- SNE (rule R112). -/
def execSne (x : Reg) (kk : Byte) (s : State) : Result := s.install (s.S.skipIf (s.S.readV x != kk))

/-- SE_REG (rule R113). -/
def execSeReg (x y : Reg) (s : State) : Result := s.install (s.S.skipIf (s.S.readV x == s.S.readV y))

/-- SNE_REG (rule R114). -/
def execSneReg (x y : Reg) (s : State) : Result := s.install (s.S.skipIf (s.S.readV x != s.S.readV y))

/-- SKP (rule R115). -/
def execSkp (x : Reg) (s : State) : Result :=
  match keyOperand (s.S.readV x) with
  | .ok k => s.install (s.S.skipIf (s.S.keyHeld k))
  | .error f => .fault f

/-- SKNP (rule R116). -/
def execSknp (x : Reg) (s : State) : Result :=
  match keyOperand (s.S.readV x) with
  | .ok k => s.install (s.S.skipIf (!s.S.keyHeld k))
  | .error f => .fault f

end Sys2Proof.Machine
end

