-- ==== Sys2Proof/Machine/TimersKeywait.lean ====
section
/-!
DEFINITION. Timer moves and key wait: LD_VX_DT, WAIT_KEY, LD_DT_VX, LD_ST_VX (spec/45_timers_keywait.md). None can fault.
-/

namespace Sys2Proof.Machine

/-- LD_VX_DT (rule R160). -/
def execLdVxDt (x : Reg) (s : State) : Result := s.install (s.S.writeV x s.S.DT).advance

/-- WAIT_KEY (rule R161): the awaited register is noted and pc advances; the wait itself is the driver's and `key_press`'s. -/
def execWaitKey (x : Reg) (s : State) : Result := s.install (s.S.setWait (some x)).advance

/-- LD_DT_VX (rule R162). -/
def execLdDtVx (x : Reg) (s : State) : Result := s.install (s.S.setDT (s.S.readV x)).advance

/-- LD_ST_VX (rule R163). -/
def execLdStVx (x : Reg) (s : State) : Result := s.install (s.S.setST (s.S.readV x)).advance

end Sys2Proof.Machine
end

