-- ==== Sys2Proof/Machine/Driver.lean ====
section
/-!
DEFINITION. The Cycle Driver (spec/47_cycle_driver.md): fetch, advance_cpu, performing a command, and taking the host's next
command. A step of the machine is one command, the oldest of the inbox; while none waits nothing changes (log 1).
-/

namespace Sys2Proof.Machine

/-- The instruction word at pc: `MemRead(pc, 2)`, high byte first (rules R64, R66). -/
def fetch (m : MachineState) : Except Fault Word :=
  match memRead m.mem m.pc.toNat 2 with
  | .ok bs => .ok (wordOfBytes (bs.getD 0 0) (bs.getD 1 0))
  | .error f => .error f

/-- Fetch, then decode (rules R171, R206): the instruction at pc, or the fault met first. -/
def fetchDecode (m : MachineState) : Except Fault Instr :=
  match fetch m with
  | .error f => .error f
  | .ok op =>
    match decode op with
    | .ok i => .ok i
    | .error _ => .error (.decodeError op m.pc)

/-- What the driver does with the outcome of an instruction executed in `s` (rules R171, R173): success archives the old S and
answers Ok; a fault is taken, with S and the history as they were. -/
def State.conclude (s : State) : Result → Result
  | .next t => .next ((t.archive s.S).answer .ok)
  | .fault f => .next (s.takeFault f)
  | .refused r => .refused r

/-- `advance_cpu()` (rules R171 to R173, R184). -/
def State.advanceCpu (s : State) : Result :=
  if s.fault.isSome then .next (s.answer .refused)
  else if s.S.waitReg.isSome then .next ((s.archive s.S).answer .ok)
  else
    match fetchDecode s.S with
    | .error f => .next (s.takeFault f)
    | .ok i => s.conclude (exec i s)

/-- One command performed (rule R170). -/
def State.perform (s : State) : Command → Result
  | .reset => .next s.resetEngine
  | .loadProgram bytes => .next (s.unlessFaulted (fun u => u.loadProgram bytes))
  | .advanceCpu => s.advanceCpu
  | .advanceTimers => .next (s.unlessFaulted (fun u => u.modifyS timerTick))
  | .keyPress k => .next (s.unlessFaulted (fun u => u.modifyS (pressKey k)))
  | .keyRelease k => .next (s.unlessFaulted (fun u => u.modifyS (releaseKey k)))
  | .rewind => .next (s.unlessFaulted State.rewind)
  | .currentFrame => .next s.currentFrame

/-- The host's next command taken and performed, the oldest of the inbox. While none waits nothing changes: the CORE never acts on
its own (rule R170; log 1). -/
def State.serve (s : State) : Result :=
  match s.inbox with
  | [] => .next s
  | c :: cs => State.perform { s with inbox := cs } c

/-- The engine made to fetch the word `op` next (log 13): the word lies at pc, in the engine's byte order; the host's next command is
advance_cpu, before those that wait already; and nothing stands before the fetch: no latched fault, no wait, and a pc the fetch can
read. -/
def State.placeWord (s : State) (op : Word) : State :=
  let pc := if 0xFFE < s.S.pc.toNat then 0x200 else s.S.pc
  { s with
    S := ((s.S.setPc pc).setMem (Memory.writeBytes s.S.mem pc.toNat (bytesOfWord op))).setWait none
    inbox := .advanceCpu :: s.inbox
    fault := none }

end Sys2Proof.Machine
end

