-- ==== Sys2Proof/Machine/Step.lean ====
section
/-!
DEFINITION. One step of the machine: the host's next command, or no change while none waits (rule R170 of
spec/47_cycle_driver.md).
-/

namespace Sys2Proof.Machine

/-- One step: the oldest command waiting, performed as one atomic transition of the engine; with none waiting, no change (rules R7,
R170). -/
def step (s : State) : Host.Outcome State Fault Refusal := s.serve

/-- `s` with an instruction of `nbits` bits, bits above them zero, stored where the next step fetches it (log 13). -/
def State.withFetchWord (s : State) (nbits w : Nat) : State := s.placeWord (BitVec.ofNat 16 (w % 2 ^ nbits))

end Sys2Proof.Machine
end

