-- ==== Sys2Proof/Safety.lean ====
section
/-!
DEFINITION. The terms claims are stated in: the invariant of rule R50 of spec/10_state.md, which fields two states share (rule
R51), what an instruction writes (rules R40, R51) and when it faults (rules R203, R218), and the sprite seen pixel by pixel
(rules R151, R152).
-/

namespace Sys2Proof.Machine

/-! ## The invariant -/

/-- What rule R50 says of a Machine State, with the bound on stack slots that keeps it (rule R102: a pushed value is at most
0x1000) and the canonical form of memory. -/
def MachineState.sound (m : MachineState) : Prop :=
  m.SP.toNat ≤ 16 ∧ m.DC.toNat < Config.timerDivider ∧ m.pc.toNat ≤ 0x10FE ∧
    (∀ k : Fin 16, (m.stack[k.val]).toNat ≤ 0x1000) ∧ Memory.wf m.mem = true

/-- What rule R50 says of the engine: the live state is sound, the history is within its capacity, and every archived state is
sound and holds no key. -/
def State.sound (s : State) : Prop :=
  s.S.sound ∧ s.history.length ≤ Config.historyCapacity ∧
    ∀ m ∈ s.history, m.sound ∧ ∀ k : Reg, m.keyHeld k = false

/-! ## Frames -/

/-- The fields of the state. -/
inductive Field where
  | V | I | pc | SP | stack | mem | fb | drawFlag | DT | ST | DC | keys | waitReg
  | history | fault | inbox | response | draws
  deriving DecidableEq, Repr

/-- Two states agree on a field: every register, every slot, every byte of memory, every pixel, every key reads the same. -/
def Field.same (s t : State) : Field → Prop
  | .V => ∀ r : Reg, t.S.readV r = s.S.readV r
  | .I => t.S.I = s.S.I
  | .pc => t.S.pc = s.S.pc
  | .SP => t.S.SP = s.S.SP
  | .stack => ∀ k : Fin 16, t.S.stack[k.val] = s.S.stack[k.val]
  | .mem => ∀ a, Memory.read t.S.mem a = Memory.read s.S.mem a
  | .fb => ∀ r c, FrameBuffer.get t.S.fb r c = FrameBuffer.get s.S.fb r c
  | .drawFlag => t.S.drawFlag = s.S.drawFlag
  | .DT => t.S.DT = s.S.DT
  | .ST => t.S.ST = s.S.ST
  | .DC => t.S.DC = s.S.DC
  | .keys => ∀ k : Reg, t.S.keyHeld k = s.S.keyHeld k
  | .waitReg => t.S.waitReg = s.S.waitReg
  | .history => t.history = s.history
  | .fault => t.fault = s.fault
  | .inbox => t.inbox = s.inbox
  | .response => t.response = s.response
  | .draws => t.draws = s.draws

/-- `t` is `s` but for the fields listed. -/
def sameBut (fs : List Field) (s t : State) : Prop := ∀ f : Field, f ∉ fs → Field.same s t f

/-- The outcome is a next state with a property. -/
def Completes (o : Result) (P : State → Prop) : Prop := ∃ t, o = .next t ∧ P t

/-- Register `x` receives `b` and every other register keeps its value. -/
def setsReg (x : Reg) (b : Byte) (s t : State) : Prop :=
  ∀ j : Reg, t.S.readV j = if j = x then b else s.S.readV j

/-- Result to Vx and flag to VF, and every other register kept (rule R131); when x = F, which of the two VF holds is the open
parameter. -/
def setsAlu (x : Reg) (result : Byte) (flag : Bool) (s t : State) : Prop :=
  ∀ j : Reg, t.S.readV j =
    if j = 15 then
      if x = 15 then
        match Config.vfDestPolicy with
        | .flagWins => flagByte flag
        | .resultWins => result
      else flagByte flag
    else if j = x then result
    else s.S.readV j

/-! ## What an instruction writes, and when it faults -/

/-- The fields an instruction writes besides pc (the "w" entries of rule R51); RND also advances the model's counter of draws
(log 4). -/
def writtenFields : Instr → List Field
  | .cls => [.fb, .drawFlag]
  | .ret => [.SP]
  | .jp _ | .se _ _ | .sne _ _ | .seReg _ _ | .sneReg _ _ | .jpOffset _ | .skp _ | .sknp _ => []
  | .call _ => [.SP, .stack]
  | .ldImm _ _ | .addImm _ _ | .ldReg _ _ | .or _ _ | .and _ _ | .xor _ _ | .addReg _ _ | .sub _ _ | .shr _ _
  | .subn _ _ | .shl _ _ | .ldVxDt _ | .loadRegs _ => [.V]
  | .rnd _ _ => [.V, .draws]
  | .ldAddr _ | .addIVx _ | .ldFont _ => [.I]
  | .drw _ _ _ => [.V, .fb, .drawFlag]
  | .waitKey _ => [.waitReg]
  | .ldDtVx _ => [.DT]
  | .ldStVx _ => [.ST]
  | .bcd _ | .storeRegs _ => [.mem]

/-- Whether an instruction writes register `j` (rules R40, R51): its destination, VF for the flag writers, V0 to Vx for LOAD_REGS. -/
def writesReg (j : Reg) : Instr → Bool
  | .ldImm x _ | .addImm x _ | .ldReg x _ | .or x _ | .and x _ | .xor x _ | .rnd x _ | .ldVxDt x => j == x
  | .addReg x _ | .sub x _ | .shr x _ | .subn x _ | .shl x _ => j == x || j == 15
  | .drw _ _ _ => j == 15
  | .loadRegs x => decide (j ≤ x)
  | .cls | .ret | .jp _ | .call _ | .se _ _ | .sne _ _ | .seReg _ _ | .sneReg _ _ | .ldAddr _ | .jpOffset _
  | .skp _ | .sknp _ | .waitKey _ | .ldDtVx _ | .ldStVx _ | .addIVx _ | .ldFont _ | .bcd _ | .storeRegs _ => false

/-- Whether an instruction stores to address `a`: BCD three bytes at I, STORE_REGS x + 1 bytes at I, no other any (rules R143,
R144). -/
def storesTo (m : MachineState) (a : Nat) : Instr → Bool
  | .bcd _ => decide (m.dataAddr ≤ a ∧ a < m.dataAddr + 3)
  | .storeRegs x => decide (m.dataAddr ≤ a ∧ a < m.dataAddr + (x.val + 1))
  | .cls | .ret | .jp _ | .call _ | .se _ _ | .sne _ _ | .seReg _ _ | .ldImm _ _ | .addImm _ _ | .ldReg _ _
  | .or _ _ | .and _ _ | .xor _ _ | .addReg _ _ | .sub _ _ | .shr _ _ | .subn _ _ | .shl _ _ | .sneReg _ _
  | .ldAddr _ | .jpOffset _ | .rnd _ _ | .drw _ _ _ | .skp _ | .sknp _ | .ldVxDt _ | .waitKey _ | .ldDtVx _
  | .ldStVx _ | .addIVx _ | .ldFont _ | .loadRegs _ => false

/-- The BoundsError of `n` bytes at I, in rule R203's words: the lowest invalid address is I when I > 0xFFF, else 0x1000. -/
def dataFault (m : MachineState) (n : Nat) : Option Fault :=
  if n = 0 ∨ m.I.toNat + n ≤ 0x1000 then none
  else some (.boundsError .mem (if 0xFFF < m.I.toNat then m.I else 0x1000))

/-- Which instruction raises what (the table of rule R203): CALL with SP = 16, RET with SP = 0, SKP and SKNP with Vx > 15, and the
four that reach memory. An SP above 16, which no run reaches, is a fault of CALL by rule R102 and of RET by log 11. -/
def faultIn (m : MachineState) : Instr → Option Fault
  | .call _ => if 16 ≤ m.SP.toNat then some (.boundsError .stack (zext8 m.SP)) else none
  | .ret => if m.SP.toNat = 0 ∨ 16 < m.SP.toNat then some (.boundsError .stack (zext8 m.SP)) else none
  | .skp x | .sknp x => if 15 < (m.readV x).toNat then some (.boundsError .key (zext8 (m.readV x))) else none
  | .bcd _ => dataFault m 3
  | .storeRegs x | .loadRegs x => dataFault m (x.val + 1)
  | .drw _ _ n => dataFault m n
  | .cls | .jp _ | .se _ _ | .sne _ _ | .seReg _ _ | .ldImm _ _ | .addImm _ _ | .ldReg _ _
  | .or _ _ | .and _ _ | .xor _ _ | .addReg _ _ | .sub _ _ | .shr _ _ | .subn _ _ | .shl _ _ | .sneReg _ _
  | .ldAddr _ | .jpOffset _ | .rnd _ _ | .ldVxDt _ | .waitKey _ | .ldDtVx _
  | .ldStVx _ | .addIVx _ | .ldFont _ => none

/-! ## Sprites -/

/-- Whether the sprite of `n` rows at I, drawn at column `cx` and row `cy`, has a set bit on pixel (c, r): frame row r shows
sprite row (r − cy) mod 32, frame column c shows sprite column (c − cx) mod 64, bit 7 leftmost (rules R151, R152). -/
def spriteBit (m : MachineState) (n cx cy : Nat) (r : Fin 32) (c : Fin 64) : Bool :=
  let i := (r.val + 32 - cy % 32) % 32
  let j := (c.val + 64 - cx % 64) % 64
  decide (i < n) && decide (j < 8) && (Memory.read m.mem (m.dataAddr + i)).getLsbD (7 - j)

/-! ## Parts of the engine an instruction must not look at -/

/-- The engine with the parts `exec` never reads or writes (rule R174) replaced, and the model's own fields with them. -/
def State.disguise (dc : Byte) (h : List MachineState) (f : Option Fault) (inb : List Command) (resp : Option Response)
    (s : State) : State :=
  { s with S := s.S.setDC dc, history := h, fault := f, inbox := inb, response := resp }

/-- A map over the next state. -/
def mapNext (g : State → State) : Result → Result
  | .next t => .next (g t)
  | .fault f => .fault f
  | .refused r => .refused r

end Sys2Proof.Machine
end

