-- ==== Sys2Proof/Certificates/Slice0/Obligations.lean ====
section
/-!
DEFINITION. What is claimed of the machine. Each docstring names the rule it formalises, and the decision of
spec/92_eei_decisions.md or the log entry it rests on where it rests on one.
-/

open Sys2Proof Sys2Proof.Machine

/-! ## Encoding -/

/-- The words of the spec's examples and test vectors decode to the instructions they stand for (rules R84, R87), and three of its
illegal words to none (rule R90). Most patterns are general knowledge (log 9); that the last nibble of 5xyN must be 0 is decision
D11. -/
def Obligations.DecodeReadsSpecWords : Prop :=
  decode 0x00E0 = .ok .cls ∧ decode 0x00EE = .ok .ret ∧ decode 0x1234 = .ok (.jp 0x234) ∧
  decode 0x220E = .ok (.call 0x20E) ∧ decode 0xB300 = .ok (.jpOffset 0x300) ∧
  decode 0x4311 = .ok (.sne 3 0x11) ∧ decode 0x5120 = .ok (.seReg 1 2) ∧ decode 0xE29E = .ok (.skp 2) ∧
  decode 0x7122 = .ok (.addImm 1 0x22) ∧ decode 0x8F14 = .ok (.addReg 15 1) ∧ decode 0x8236 = .ok (.shr 2 3) ∧
  decode 0xC10F = .ok (.rnd 1 0x0F) ∧ decode 0xF133 = .ok (.bcd 1) ∧ decode 0xF265 = .ok (.loadRegs 2) ∧
  decode 0xD345 = .ok (.drw 3 4 5) ∧ decode 0xF10A = .ok (.waitKey 1) ∧ decode 0xF318 = .ok (.ldStVx 3) ∧
  decode 0x0000 = .error .group0 ∧ decode 0x5121 = .error .group5 ∧ decode 0x800F = .error .group8

/-- Decoding the word of a well-formed instruction gives it back, every operand at every value (rules R81, R83, R84). -/
def Obligations.DecodeEncodeRoundTrip : Prop :=
  ∀ i : Instr, i.wellFormed = true → decode (encode i) = .ok i

/-- A word that decodes is the word of the instruction it decodes to, and that instruction is well formed: no bit of an encoding is
dropped (rules R81, R91). -/
def Obligations.EncodeDecodeRoundTrip : Prop :=
  ∀ (op : Word) (i : Instr), decode op = .ok i → i.wellFormed = true ∧ encode i = op

/-- Rule R84: a word selects a row exactly when its masked bits match. A word that decodes selects the row of its instruction and no
other (the 34 patterns are disjoint); a word that does not decode selects none. -/
def Obligations.DecodeFollowsOpcodeTable : Prop :=
  opcodeTable.length = 34 ∧
  (∀ (op : Word) (i : Instr), decode op = .ok i →
    i.row ∈ opcodeTable ∧ ∀ r ∈ opcodeTable, (r.selects op = true ↔ r = i.row)) ∧
  (∀ (op : Word) (e : Illegal), decode op = .error e → ∀ r ∈ opcodeTable, r.selects op = false)

/-- The illegal words are exactly the groups of rule R90, and the decoder names the group. That 5xyN and 9xyN need N = 0 is
decision D11; the names of the groups are the model's (log 14). -/
def Obligations.IllegalWordsAreTheListedGroups : Prop :=
  ∀ op : Word,
    (decode op = .error .group0 ↔ op.toNat < 0x1000 ∧ op ≠ 0x00E0 ∧ op ≠ 0x00EE) ∧
    (decode op = .error .group5 ↔ op.toNat / 0x1000 = 5 ∧ op.toNat % 16 ≠ 0) ∧
    (decode op = .error .group8 ↔
      op.toNat / 0x1000 = 8 ∧ op.toNat % 16 ∈ [8, 9, 0xA, 0xB, 0xC, 0xD, 0xF]) ∧
    (decode op = .error .group9 ↔ op.toNat / 0x1000 = 9 ∧ op.toNat % 16 ≠ 0) ∧
    (decode op = .error .groupE ↔ op.toNat / 0x1000 = 0xE ∧ op.toNat % 256 ∉ [0x9E, 0xA1]) ∧
    (decode op = .error .groupF ↔
      op.toNat / 0x1000 = 0xF ∧ op.toNat % 256 ∉ [0x07, 0x0A, 0x15, 0x18, 0x1E, 0x29, 0x33, 0x55, 0x65]) ∧
    decode op ≠ .error .truncated

/-! ## The Cycle Driver -/

/-- The command advance_cpu of an unfaulted, Running engine whose two bytes at pc, high byte first, decode to `i` is `exec i` with what
rules R171 and R173 add around it, whatever commands wait: success archives the old S and answers Ok; a fault is latched and
answered, and nothing else changes (byte order D6, log 9; the latch and the abort D24, D25). When it is the oldest command of the
inbox, which is the model's (log 1), a step takes it from the inbox and is that command. -/
def Obligations.StepRunsDecodedInstruction : Prop :=
  ∀ (s : State) (i : Instr), s.fault = none → s.S.waitReg = none → s.S.pc.toNat ≤ 0xFFE →
    decode (Memory.read s.S.mem s.S.pc.toNat ++ Memory.read s.S.mem (s.S.pc.toNat + 1)) = .ok i →
    let performed (u : State) : Result :=
      match exec i u with
      | .next t => .next { t with history := record t.history u.S, response := some .ok }
      | .fault f => .next { u with fault := some f, response := some (.fault f) }
      | .refused r => .refused r
    s.perform .advanceCpu = performed s ∧
    (∀ cs, s.inbox = .advanceCpu :: cs → step s = performed { s with inbox := cs })

/-- A step performs the host's oldest waiting command and takes it from the inbox; with none waiting it changes nothing. That commands
are performed one at a time and that the CORE never acts on its own is rule R170; the inbox is the model's (log 1). -/
def Obligations.StepPerformsOldestCommand : Prop :=
  (∀ (s : State) (c : Command) (cs : List Command), s.inbox = c :: cs →
    step s = State.perform { s with inbox := cs } c) ∧
  (∀ s : State, s.inbox = [] → step s = .next s)

/-- advance_cpu in AwaitingKey executes nothing: it archives S, leaves it unchanged and answers Ok; when the history is full the
oldest entry goes (rule R172). -/
def Obligations.AwaitingKeyArchivesUnchangedState : Prop :=
  ∀ (s : State) (r : Reg), s.fault = none → s.S.waitReg = some r →
    Completes (s.perform .advanceCpu) (fun t =>
      t.S = s.S ∧ t.response = some .ok ∧ t.fault = none ∧
      (s.history.length ≠ Config.historyCapacity → t.history = s.history ++ [s.S.zeroKeys]) ∧
      (s.history.length = Config.historyCapacity → t.history = s.history.tail ++ [s.S.zeroKeys]) ∧
      t.inbox = s.inbox ∧ t.draws = s.draws)

/-- The first fault met abandons advance_cpu (rules R64, R173, R202, R205, R206): a fetch above 0xFFE first, an illegal word next, the
instruction's own fault last; S and the history stay, the record is latched and answered. The reported fetch address and the
latch are decisions D9, D21, D24, D25. -/
def Obligations.AdvanceCpuTakesFirstFault : Prop :=
  ∀ s : State, s.fault = none → s.S.waitReg = none →
    let latched (f : Fault) : State := { s with fault := some f, response := some (.fault f) }
    let word := Memory.read s.S.mem s.S.pc.toNat ++ Memory.read s.S.mem (s.S.pc.toNat + 1)
    (s.S.pc = 0xFFF → s.perform .advanceCpu = .next (latched (.boundsError .mem 0x1000))) ∧
    (0x1000 ≤ s.S.pc.toNat → s.perform .advanceCpu = .next (latched (.boundsError .mem s.S.pc))) ∧
    (s.S.pc.toNat ≤ 0xFFE → ∀ e, decode word = .error e →
      s.perform .advanceCpu = .next (latched (.decodeError word s.S.pc))) ∧
    (s.S.pc.toNat ≤ 0xFFE → ∀ i f, decode word = .ok i → exec i s = .fault f →
      s.perform .advanceCpu = .next (latched f))

/-- A faulted engine refuses every command but reset and changes nothing; current_frame still answers, without clearing draw_flag
(rule R184, decision D24). -/
def Obligations.FaultedEngineRefusesAllButReset : Prop :=
  ∀ (s : State) (c : Command), s.fault ≠ none →
    (c ≠ .reset → c ≠ .currentFrame → s.perform c = .next { s with response := some .refused }) ∧
    s.perform .currentFrame =
      .next { s with response := some (.frame (if s.S.drawFlag = true then some s.S.fb else none)) } ∧
    Completes (s.perform .reset) (fun t => t.fault = none ∧ t.S = MachineState.reset)

/-- reset is accepted in every state and installs the reset state; nothing of S, the history or the latch survives (rules R230, R231,
decision D31). That the host's waiting commands and the count of draws are not the engine's and stay is log 12. -/
def Obligations.ResetInstallsResetState : Prop :=
  ∀ s : State,
    s.perform .reset = .next { State.reset with inbox := s.inbox, draws := s.draws, response := some .ok }

/-- The reset values, field by field (rule R49; the history and the latch by decisions D24, D31). The font table is 80 bytes at 0x000,
glyph d at 5 × d, and its sixteen glyphs are those of rule R68 (general knowledge of the spec, decision D33, log 8). -/
def Obligations.ResetStateHoldsStatedValues : Prop :=
  let glyph (a : Nat) : List Byte := Memory.readBytes State.reset.S.mem a 5
  (∀ r : Reg, State.reset.S.readV r = 0) ∧ State.reset.S.I = 0 ∧ State.reset.S.pc = 0x200 ∧
  State.reset.S.SP = 0 ∧ (∀ k : Fin 16, State.reset.S.stack[k.val] = 0) ∧
  Config.font.length = 80 ∧
  (∀ a, a < 80 → Memory.read State.reset.S.mem a = Config.font.getD a 0) ∧
  glyph 0x000 = [0xF0, 0x90, 0x90, 0x90, 0xF0] ∧
  glyph 0x005 = [0x20, 0x60, 0x20, 0x20, 0x70] ∧
  glyph 0x00A = [0xF0, 0x10, 0xF0, 0x80, 0xF0] ∧
  glyph 0x00F = [0xF0, 0x10, 0xF0, 0x10, 0xF0] ∧
  glyph 0x014 = [0x90, 0x90, 0xF0, 0x10, 0x10] ∧
  glyph 0x019 = [0xF0, 0x80, 0xF0, 0x10, 0xF0] ∧
  glyph 0x01E = [0xF0, 0x80, 0xF0, 0x90, 0xF0] ∧
  glyph 0x023 = [0xF0, 0x10, 0x20, 0x40, 0x40] ∧
  glyph 0x028 = [0xF0, 0x90, 0xF0, 0x90, 0xF0] ∧
  glyph 0x02D = [0xF0, 0x90, 0xF0, 0x10, 0xF0] ∧
  glyph 0x032 = [0xF0, 0x90, 0xF0, 0x90, 0x90] ∧
  glyph 0x037 = [0xE0, 0x90, 0xE0, 0x90, 0xE0] ∧
  glyph 0x03C = [0xF0, 0x80, 0x80, 0x80, 0xF0] ∧
  glyph 0x041 = [0xE0, 0x90, 0x90, 0x90, 0xE0] ∧
  glyph 0x046 = [0xF0, 0x80, 0xF0, 0x80, 0xF0] ∧
  glyph 0x04B = [0xF0, 0x80, 0xF0, 0x80, 0x80] ∧
  (∀ a, 80 ≤ a → Memory.read State.reset.S.mem a = 0) ∧
  (∀ r c, FrameBuffer.get State.reset.S.fb r c = false) ∧ State.reset.S.drawFlag = false ∧
  State.reset.S.DT = 0 ∧ State.reset.S.ST = 0 ∧ State.reset.S.DC = 0 ∧
  (∀ k : Reg, State.reset.S.keyHeld k = false) ∧ State.reset.S.waitReg = none ∧
  State.reset.history = [] ∧ State.reset.fault = none

/-- Only advance_cpu appends to the history (rule R185): rewind of an unfaulted engine drops the newest entry, if there is one (rules
R193, R194), and of a faulted engine leaves it (decision D24); reset empties it (decision D31); every other command leaves it. An
advance_cpu that answers Ok appends the old S; one that does not leaves history and S as they were (rule R173, decisions D24,
D25). -/
def Obligations.OnlyAdvanceCpuArchives : Prop :=
  ∀ (s t : State) (c : Command), s.perform c = .next t →
    (c ≠ .advanceCpu → c ≠ .rewind → c ≠ .reset → t.history = s.history) ∧
    (c = .rewind → t.history = if s.fault = none then s.history.dropLast else s.history) ∧
    (c = .reset → t.history = []) ∧
    (c = .advanceCpu → t.response = some .ok → t.history = record s.history s.S) ∧
    (c = .advanceCpu → t.response ≠ some .ok → t.history = s.history ∧ t.S = s.S)

/-- Running without a program: the first advance_cpu after reset answers DecodeError(0x0000, 0x200) (rule R236); latching the record is
decision D24. So does the step that performs it, when it is the oldest command of the model's inbox (log 1). -/
def Obligations.RunningWithoutProgramFaults : Prop :=
  let faulted (u : State) : State :=
    { u with fault := some (.decodeError 0x0000 0x200), response := some (.fault (.decodeError 0x0000 0x200)) }
  State.reset.perform .advanceCpu = .next (faulted State.reset) ∧
  ∀ cs, step { State.reset with inbox := .advanceCpu :: cs } = .next (faulted { State.reset with inbox := cs })

/-- The driver's two states (rule R175): wait_reg changes only when advance_cpu executes WAIT_KEY from Running, when key_press ends a
wait, or when rewind or reset install a whole state. -/
def Obligations.WaitChangesOnlyByListedEvents : Prop :=
  ∀ (s t : State) (c : Command), s.perform c = .next t → t.S.waitReg ≠ s.S.waitReg →
    (c = .advanceCpu ∧ s.S.waitReg = none ∧
      ∃ x, decode (Memory.read s.S.mem s.S.pc.toNat ++ Memory.read s.S.mem (s.S.pc.toNat + 1)) = .ok (.waitKey x) ∧
        t.S.waitReg = some x) ∨
    (∃ k r, c = .keyPress k ∧ s.S.waitReg = some r ∧ t.S.waitReg = none) ∨
    c = .rewind ∨ c = .reset

/-! ## The History Buffer -/

/-- record appends the state with its keys zeroed and every other field kept, evicting the oldest entry first when the buffer is full;
afterwards its length is min(len + 1, N) (rules R191, R192). -/
def Obligations.RecordEvictsAndZeroesKeys : Prop :=
  ∀ (h : List MachineState) (m : MachineState),
    let N := Config.historyCapacity
    (h.length ≠ N → record h m = h ++ [m.zeroKeys]) ∧
    (h.length = N → record h m = h.drop 1 ++ [m.zeroKeys]) ∧
    (h.length ≤ N → (record h m).length = min (h.length + 1) N) ∧
    (∀ k : Reg, m.zeroKeys.keyHeld k = false) ∧
    m.zeroKeys.V = m.V ∧ m.zeroKeys.I = m.I ∧ m.zeroKeys.pc = m.pc ∧ m.zeroKeys.SP = m.SP ∧
    m.zeroKeys.stack = m.stack ∧ m.zeroKeys.mem = m.mem ∧ m.zeroKeys.fb = m.fb ∧
    m.zeroKeys.drawFlag = m.drawFlag ∧ m.zeroKeys.DT = m.DT ∧ m.zeroKeys.ST = m.ST ∧
    m.zeroKeys.DC = m.DC ∧ m.zeroKeys.waitReg = m.waitReg

/-- rewind of an unfaulted engine: with an empty history nothing changes; otherwise the newest archived state replaces S whole and
leaves the history, and its keys read as not held in every state that meets the engine's invariant. It answers Ok (rules R193,
R194). -/
def Obligations.RewindInstallsNewestArchive : Prop :=
  ∀ s : State, s.fault = none →
    (s.history = [] → s.perform .rewind = .next { s with response := some .ok }) ∧
    (∀ (h : List MachineState) (m : MachineState), s.history = h ++ [m] →
      s.perform .rewind = .next { s with S := m, history := h, response := some .ok } ∧
      (s.sound → ∀ k : Reg, m.keyHeld k = false))

/-- Recording more than N states keeps exactly the N most recent, in order, keys zeroed (rule R196). -/
def Obligations.HistoryKeepsMostRecent : Prop :=
  ∀ (h ms : List MachineState), h.length ≤ Config.historyCapacity →
    ms.foldl record h =
      (h ++ ms.map MachineState.zeroKeys).drop (h.length + ms.length - Config.historyCapacity)

/-- The round trip (rule R197): after an advance_cpu that answers Ok, rewind gives back S but for the keys, which are all 0, and the
history, less its oldest entry when it was full; after one that faults, the rewind is refused. -/
def Obligations.AdvanceThenRewindRestoresState : Prop :=
  ∀ s t : State, s.fault = none → s.history.length ≤ Config.historyCapacity → s.perform .advanceCpu = .next t →
    (t.response = some .ok →
      Completes (t.perform .rewind) (fun u =>
        u.S = s.S.zeroKeys ∧
        (s.history.length < Config.historyCapacity → u.history = s.history) ∧
        (s.history.length = Config.historyCapacity → u.history = s.history.tail))) ∧
    (t.response ≠ some .ok → t.perform .rewind = .next { t with response := some .refused })

/-! ## Timers, keys, program loading, the frame -/

/-- advance_timers of an unfaulted engine (rule R176; its exact form is decision D5): DC is reloaded at zero and counts down, and on
reaching zero both timers are decremented, saturating; nothing else changes, Running or waiting. -/
def Obligations.AdvanceTimersCountsDown : Prop :=
  ∀ s : State, s.fault = none →
    let c := (if s.S.DC = 0 then Config.timerDivider else s.S.DC.toNat) - 1
    Completes (s.perform .advanceTimers) (fun t =>
      t.S.DC.toNat = c ∧
      t.S.DT.toNat = (if c = 0 then s.S.DT.toNat - 1 else s.S.DT.toNat) ∧
      t.S.ST.toNat = (if c = 0 then s.S.ST.toNat - 1 else s.S.ST.toNat) ∧
      t.response = some .ok ∧ sameBut [.DC, .DT, .ST, .response] s t)

/-- From DC = 0 the timers are decremented once in every K ticks, on the K-th; from DC = d > 0 on the d-th; before that they keep their
values (rule R177). -/
def Obligations.TimersDecrementOncePerDivider : Prop :=
  ∀ m : MachineState,
    let d := if m.DC = 0 then Config.timerDivider else m.DC.toNat
    (∀ j, j < d → (timerTick^[j] m).DT = m.DT ∧ (timerTick^[j] m).ST = m.ST) ∧
    (timerTick^[d] m).DC = 0 ∧ (timerTick^[d] m).DT.toNat = m.DT.toNat - 1 ∧
    (timerTick^[d] m).ST.toNat = m.ST.toNat - 1

/-- key_press of an unfaulted engine (rule R178; that any key ends the wait and the key is also marked held is decision D27): the key is
held; if a register awaits a key it receives the key's number and the wait ends; nothing else changes. -/
def Obligations.KeyPressMarksKeyAndEndsWait : Prop :=
  ∀ (s : State) (k : Reg), s.fault = none →
    Completes (s.perform (.keyPress k)) (fun t =>
      (∀ j : Reg, t.S.keyHeld j = if j = k then true else s.S.keyHeld j) ∧
      t.S.waitReg = none ∧
      (∀ j : Reg, t.S.readV j = if s.S.waitReg = some j then BitVec.ofNat 8 k.val else s.S.readV j) ∧
      t.response = some .ok ∧ sameBut [.V, .keys, .waitReg, .response] s t)

/-- key_release of an unfaulted engine clears the key and changes nothing else; it never ends a wait (rule R179). -/
def Obligations.KeyReleaseClearsKey : Prop :=
  ∀ (s : State) (k : Reg), s.fault = none →
    Completes (s.perform (.keyRelease k)) (fun t =>
      (∀ j : Reg, t.S.keyHeld j = if j = k then false else s.S.keyHeld j) ∧
      t.response = some .ok ∧ sameBut [.keys, .response] s t)

/-- load_program of an unfaulted engine (rule R181, decision D30): at most 3584 bytes go to 0x200 on and no other byte or field changes;
more answer LoadError with the count and change nothing. -/
def Obligations.LoadProgramCopiesBytes : Prop :=
  ∀ (s : State) (bytes : List Byte), s.fault = none →
    (bytes.length ≤ 3584 →
      Completes (s.perform (.loadProgram bytes)) (fun t =>
        (∀ a, Memory.read t.S.mem a =
          if 0x200 ≤ a ∧ a < 0x200 + bytes.length then bytes.getD (a - 0x200) 0 else Memory.read s.S.mem a) ∧
        t.response = some .ok ∧ sameBut [.mem, .response] s t)) ∧
    (3584 < bytes.length →
      s.perform (.loadProgram bytes) = .next { s with response := some (.loadError bytes.length) })

/-- current_frame of an unfaulted engine (rule R183, decision D29): when draw_flag is set it answers the frame and clears the flag;
otherwise it answers None; nothing else changes. -/
def Obligations.CurrentFrameAnswersAndClears : Prop :=
  ∀ s : State, s.fault = none →
    Completes (s.perform .currentFrame) (fun t =>
      t.response = some (.frame (if s.S.drawFlag = true then some s.S.fb else none)) ∧
      t.S.drawFlag = false ∧ sameBut [.drawFlag, .response] s t)

/-! ## Memory -/

/-- MemRead and MemWrite (rules R62, R63; the reported address is decision D21): inside memory a write stores its bytes in address
order and nothing else, and a read gives the stored bytes; an access reaching above 0xFFF faults with the lowest invalid address
and stores nothing. -/
def Obligations.MemoryAccessIsAllOrNothing : Prop :=
  ∀ (m : Memory) (a : Nat),
    (∀ bs : List Byte, (bs = [] ∨ a + bs.length ≤ 0x1000) →
      ∃ m', memWrite m a bs = .ok m' ∧
        ∀ b, Memory.read m' b = if a ≤ b ∧ b < a + bs.length then bs.getD (b - a) 0 else Memory.read m b) ∧
    (∀ n, (n = 0 ∨ a + n ≤ 0x1000) →
      ∃ bs, memRead m a n = .ok bs ∧ bs.length = n ∧ ∀ i, i < n → bs.getD i 0 = Memory.read m (a + i)) ∧
    (∀ bs : List Byte, bs ≠ [] → 0x1000 < a + bs.length →
      memWrite m a bs = .error (.boundsError .mem (BitVec.ofNat 16 (if 0xFFF < a then a else 0x1000)))) ∧
    (∀ n, n ≠ 0 → 0x1000 < a + n →
      memRead m a n = .error (.boundsError .mem (BitVec.ofNat 16 (if 0xFFF < a then a else 0x1000))))

/-- A word stored at pc, high byte at the lower address, is what the next fetch reads, at even and odd pc alike (rules R66, R67, R75;
decisions D6, D7). What the spec marks here as general knowledge is log 9. -/
def Obligations.FetchReadsStoredWord : Prop :=
  ∀ (m : MachineState) (hi lo : Byte), m.pc.toNat ≤ 0xFFE →
    fetch (m.setMem (Memory.writeBytes m.mem m.pc.toNat [hi, lo])) = .ok (BitVec.ofNat 16 (hi.toNat * 256 + lo.toNat))

/-! ## All instructions -/

/-- No instruction changes a field but pc and those rule R51 says it writes; RND also advances the model's count of draws (log 4). -/
def Obligations.ExecKeepsUnwrittenFields : Prop :=
  ∀ (i : Instr) (s t : State), exec i s = .next t → sameBut (.pc :: writtenFields i) s t

/-- No instruction changes a register but its destination and, for the flag writers, VF (rules R40, R51). -/
def Obligations.ExecKeepsUnwrittenRegisters : Prop :=
  ∀ (i : Instr) (s t : State) (j : Reg), exec i s = .next t → writesReg j i = false → t.S.readV j = s.S.readV j

/-- No instruction changes a byte of memory but BCD the three at I and STORE_REGS the x + 1 at I (rules R51, R143, R144). -/
def Obligations.ExecKeepsUnaddressedMemory : Prop :=
  ∀ (i : Instr) (s t : State) (a : Nat), exec i s = .next t → storesTo s.S a i = false →
    Memory.read t.S.mem a = Memory.read s.S.mem a

/-- An instruction faults exactly where the table of rule R203 says, with that record, and otherwise answers a next state (rules R203,
R218; the reported index is decisions D21, D44). RET with SP above 16 is log 11. -/
def Obligations.ExecFaultsExactlyAsTabulated : Prop :=
  ∀ (i : Instr) (s : State),
    match faultIn s.S i with
    | some f => exec i s = .fault f
    | none => ∃ t, exec i s = .next t

/-- exec never reads or writes DC, the history or the fault latch (rule R174), nor the model's inbox and answer: replacing them
changes nothing else of its outcome. -/
def Obligations.ExecIgnoresEngineFields : Prop :=
  ∀ (i : Instr) (s : State) (dc : Byte) (h : List MachineState) (f : Option Fault) (inb : List Command)
    (resp : Option Response),
    exec i (s.disguise dc h f inb resp) = mapNext (State.disguise dc h f inb resp) (exec i s)

/-! ## Control transfer -/

/-- JP (rule R101): pc becomes the address, unchecked, and nothing else changes; a jump to itself leaves S as it was.
What the spec marks here as general knowledge is log 9. -/
def Obligations.JpSetsPc : Prop :=
  ∀ nnn : Addr, decode (0x1#4 ++ nnn) = .ok (.jp nnn) ∧ ∀ s : State,
    Completes (exec (.jp nnn) s) (fun t =>
      t.S.pc.toNat = nnn.toNat ∧ sameBut [.pc] s t ∧ (s.S.pc.toNat = nnn.toNat → t.S = s.S))

/-- CALL (rule R102; the slot is decision D16): below 16 occupied slots pc + 2 goes to slot SP, SP counts up, pc becomes the address and no
other slot or field changes; at 16 it faults. What the spec marks here as general knowledge is log 9. -/
def Obligations.CallPushesReturnAddress : Prop :=
  ∀ nnn : Addr, decode (0x2#4 ++ nnn) = .ok (.call nnn) ∧ ∀ s : State,
    (s.S.SP.toNat < 16 →
      Completes (exec (.call nnn) s) (fun t =>
        t.S.pc.toNat = nnn.toNat ∧ t.S.SP.toNat = s.S.SP.toNat + 1 ∧
        (∀ k : Fin 16, t.S.stack[k.val] = if k.val = s.S.SP.toNat then s.S.pc + 2 else s.S.stack[k.val]) ∧
        sameBut [.pc, .SP, .stack] s t)) ∧
    (16 ≤ s.S.SP.toNat → exec (.call nnn) s = .fault (.boundsError .stack (s.S.SP.setWidth 16)))

/-- RET (rule R103; the slot is decision D16): with 1 to 16 occupied slots SP counts down and pc becomes the newest address, which stays in
its slot; with none it faults. An SP above 16, which no run reaches, faults too (log 11).
What the spec marks here as general knowledge is log 9. -/
def Obligations.RetPopsReturnAddress : Prop :=
  decode 0x00EE = .ok .ret ∧ ∀ s : State,
    (∀ k : Fin 16, s.S.SP.toNat = k.val + 1 →
      Completes (exec .ret s) (fun t =>
        t.S.SP.toNat = k.val ∧ t.S.pc = s.S.stack[k.val] ∧ sameBut [.pc, .SP] s t)) ∧
    (s.S.SP = 0 → exec .ret s = .fault (.boundsError .stack 0)) ∧
    (16 < s.S.SP.toNat → exec .ret s = .fault (.boundsError .stack (s.S.SP.setWidth 16)))

/-- JP_OFFSET (rule R104; that V0 is added and nothing is masked is decision D17).
What the spec marks here as general knowledge is log 9. -/
def Obligations.JpOffsetAddsV0 : Prop :=
  ∀ nnn : Addr, decode (0xB#4 ++ nnn) = .ok (.jpOffset nnn) ∧ ∀ s : State,
    Completes (exec (.jpOffset nnn) s) (fun t =>
      t.S.pc.toNat = nnn.toNat + (s.S.readV 0).toNat ∧ sameBut [.pc] s t)

/-! ## Skips -/

/-- SE and SNE, SE_REG and SNE_REG (rules R111 to R114): pc + 4 when the comparison holds, else pc + 2, and nothing else changes.
What the spec marks here as general knowledge is log 9. -/
def Obligations.ComparingSkipsAdvancePc : Prop :=
  ∀ (x y : Reg) (kk : Byte),
    decode (0x3#4 ++ regBits x ++ kk) = .ok (.se x kk) ∧ decode (0x4#4 ++ regBits x ++ kk) = .ok (.sne x kk) ∧
    decode (0x5#4 ++ regBits x ++ regBits y ++ 0#4) = .ok (.seReg x y) ∧
    decode (0x9#4 ++ regBits x ++ regBits y ++ 0#4) = .ok (.sneReg x y) ∧
    ∀ s : State,
      Completes (exec (.se x kk) s) (fun t =>
        t.S.pc = (if s.S.readV x = kk then s.S.pc + 4 else s.S.pc + 2) ∧ sameBut [.pc] s t) ∧
      Completes (exec (.sne x kk) s) (fun t =>
        t.S.pc = (if s.S.readV x ≠ kk then s.S.pc + 4 else s.S.pc + 2) ∧ sameBut [.pc] s t) ∧
      Completes (exec (.seReg x y) s) (fun t =>
        t.S.pc = (if s.S.readV x = s.S.readV y then s.S.pc + 4 else s.S.pc + 2) ∧ sameBut [.pc] s t) ∧
      Completes (exec (.sneReg x y) s) (fun t =>
        t.S.pc = (if s.S.readV x ≠ s.S.readV y then s.S.pc + 4 else s.S.pc + 2) ∧ sameBut [.pc] s t)

/-- SKP and SKNP (rules R115, R116): with Vx a key number 0 to 15 they skip on the key held or not held and change nothing but pc; with Vx
above 15 they fault (decision D22). What the spec marks here as general knowledge is log 9. -/
def Obligations.KeySkipsReadKeyOrFault : Prop :=
  ∀ x : Reg, decode (0xE#4 ++ regBits x ++ 0x9E#8) = .ok (.skp x) ∧
    decode (0xE#4 ++ regBits x ++ 0xA1#8) = .ok (.sknp x) ∧ ∀ s : State,
    (∀ k : Reg, (s.S.readV x).toNat = k.val →
      Completes (exec (.skp x) s) (fun t =>
        t.S.pc = (if s.S.keyHeld k = true then s.S.pc + 4 else s.S.pc + 2) ∧ sameBut [.pc] s t) ∧
      Completes (exec (.sknp x) s) (fun t =>
        t.S.pc = (if s.S.keyHeld k = false then s.S.pc + 4 else s.S.pc + 2) ∧ sameBut [.pc] s t)) ∧
    (15 < (s.S.readV x).toNat →
      exec (.skp x) s = .fault (.boundsError .key ((s.S.readV x).setWidth 16)) ∧
      exec (.sknp x) s = .fault (.boundsError .key ((s.S.readV x).setWidth 16)))

/-! ## Loads and ALU -/

/-- LD_IMM, ADD_IMM, LD_REG (rules R120 to R122): Vx receives the literal, the wrapping sum, the copy; no flag is written and nothing else
changes. What the spec marks here as general knowledge is log 9. -/
def Obligations.LoadsAndLiteralAddSetVx : Prop :=
  ∀ (x y : Reg) (kk : Byte),
    decode (0x6#4 ++ regBits x ++ kk) = .ok (.ldImm x kk) ∧ decode (0x7#4 ++ regBits x ++ kk) = .ok (.addImm x kk) ∧
    decode (0x8#4 ++ regBits x ++ regBits y ++ 0#4) = .ok (.ldReg x y) ∧
    ∀ s : State,
      Completes (exec (.ldImm x kk) s) (fun t =>
        setsReg x kk s t ∧ t.S.pc = s.S.pc + 2 ∧ sameBut [.pc, .V] s t) ∧
      Completes (exec (.addImm x kk) s) (fun t =>
        setsReg x (BitVec.ofNat 8 (((s.S.readV x).toNat + kk.toNat) % 256)) s t ∧ t.S.pc = s.S.pc + 2 ∧
        sameBut [.pc, .V] s t) ∧
      Completes (exec (.ldReg x y) s) (fun t =>
        setsReg x (s.S.readV y) s t ∧ t.S.pc = s.S.pc + 2 ∧ sameBut [.pc, .V] s t)

/-- OR, AND, XOR (rules R123 to R125): Vx receives the bitwise result and nothing else changes; that VF is left alone is decision D13.
What the spec marks here as general knowledge is log 9. -/
def Obligations.LogicalOpsSetVxBitwise : Prop :=
  ∀ x y : Reg,
    decode (0x8#4 ++ regBits x ++ regBits y ++ 1#4) = .ok (.or x y) ∧
    decode (0x8#4 ++ regBits x ++ regBits y ++ 2#4) = .ok (.and x y) ∧
    decode (0x8#4 ++ regBits x ++ regBits y ++ 3#4) = .ok (.xor x y) ∧
    ∀ s : State,
      Completes (exec (.or x y) s) (fun t =>
        (∀ b, (t.S.readV x).getLsbD b = ((s.S.readV x).getLsbD b || (s.S.readV y).getLsbD b)) ∧
        setsReg x (t.S.readV x) s t ∧ t.S.pc = s.S.pc + 2 ∧ sameBut [.pc, .V] s t) ∧
      Completes (exec (.and x y) s) (fun t =>
        (∀ b, (t.S.readV x).getLsbD b = ((s.S.readV x).getLsbD b && (s.S.readV y).getLsbD b)) ∧
        setsReg x (t.S.readV x) s t ∧ t.S.pc = s.S.pc + 2 ∧ sameBut [.pc, .V] s t) ∧
      Completes (exec (.xor x y) s) (fun t =>
        (∀ b, (t.S.readV x).getLsbD b = ((s.S.readV x).getLsbD b ^^ (s.S.readV y).getLsbD b)) ∧
        setsReg x (t.S.readV x) s t ∧ t.S.pc = s.S.pc + 2 ∧ sameBut [.pc, .V] s t)

/-- ADD_REG (rules R126, R131, R132): the sum of the old values reduced mod 256 to Vx, the carry to VF, whatever x and y are; which of the two
VF keeps when x = F is the open parameter (decision D12, log 7).
What the spec marks here as general knowledge is log 9. -/
def Obligations.AddRegSetsSumAndCarry : Prop :=
  ∀ x y : Reg, decode (0x8#4 ++ regBits x ++ regBits y ++ 4#4) = .ok (.addReg x y) ∧ ∀ s : State,
    let total := (s.S.readV x).toNat + (s.S.readV y).toNat
    Completes (exec (.addReg x y) s) (fun t =>
      setsAlu x (BitVec.ofNat 8 (total % 256)) (decide (total > 255)) s t ∧ t.S.pc = s.S.pc + 2 ∧
      sameBut [.pc, .V] s t)

/-- SUB and SUBN (rules R127, R129, R131, R132): the difference of the old values reduced mod 256 to Vx, 1 to VF when no borrow occurs, equality
included (decision D14); x = F as for ADD_REG (decision D12, log 7).
What the spec marks here as general knowledge is log 9. -/
def Obligations.SubtractionsSetDifferenceAndNoBorrow : Prop :=
  ∀ x y : Reg, decode (0x8#4 ++ regBits x ++ regBits y ++ 5#4) = .ok (.sub x y) ∧
    decode (0x8#4 ++ regBits x ++ regBits y ++ 7#4) = .ok (.subn x y) ∧ ∀ s : State,
    let a := s.S.readV x
    let b := s.S.readV y
    Completes (exec (.sub x y) s) (fun t =>
      setsAlu x (a - b) (decide (b.toNat ≤ a.toNat)) s t ∧ t.S.pc = s.S.pc + 2 ∧ sameBut [.pc, .V] s t) ∧
    Completes (exec (.subn x y) s) (fun t =>
      setsAlu x (b - a) (decide (a.toNat ≤ b.toNat)) s t ∧ t.S.pc = s.S.pc + 2 ∧ sameBut [.pc, .V] s t)

/-- SHR and SHL (rules R128, R130, R131): Vx shifted one place in place, the bit shifted out to VF, every value of y alike (decision D15); x = F as
for ADD_REG (decision D12, log 7). What the spec marks here as general knowledge is log 9. -/
def Obligations.ShiftsSetResultAndBitShiftedOut : Prop :=
  ∀ x y : Reg, decode (0x8#4 ++ regBits x ++ regBits y ++ 6#4) = .ok (.shr x y) ∧
    decode (0x8#4 ++ regBits x ++ regBits y ++ 0xE#4) = .ok (.shl x y) ∧ ∀ s : State,
    let a := s.S.readV x
    Completes (exec (.shr x y) s) (fun t =>
      setsAlu x (a >>> 1) (a.getLsbD 0) s t ∧ t.S.pc = s.S.pc + 2 ∧ sameBut [.pc, .V] s t) ∧
    Completes (exec (.shl x y) s) (fun t =>
      setsAlu x (a <<< 1) (a.getLsbD 7) s t ∧ t.S.pc = s.S.pc + 2 ∧ sameBut [.pc, .V] s t)

/-- RND (rule R133): Vx receives the draw masked by the literal, whatever the draw is, so its bits are 0 where the literal's are; the draw
is the model's free value, a fresh one for each execution (log 4). -/
def Obligations.RndSetsMaskedDraw : Prop :=
  ∀ (x : Reg) (kk : Byte), decode (0xC#4 ++ regBits x ++ kk) = .ok (.rnd x kk) ∧ ∀ s : State,
    Completes (exec (.rnd x kk) s) (fun t =>
      setsReg x (Config.draw s.draws &&& kk) s t ∧ t.draws = s.draws + 1 ∧
      (∀ b, kk.getLsbD b = false → (t.S.readV x).getLsbD b = false) ∧
      t.S.pc = s.S.pc + 2 ∧ sameBut [.pc, .V, .draws] s t)

/-! ## Address register and memory -/

/-- LD_ADDR (rule R140): I becomes the literal and nothing else but pc changes.
What the spec marks here as general knowledge is log 9. -/
def Obligations.LdAddrSetsI : Prop :=
  ∀ nnn : Addr, decode (0xA#4 ++ nnn) = .ok (.ldAddr nnn) ∧ ∀ s : State,
    Completes (exec (.ldAddr nnn) s) (fun t =>
      t.S.I.toNat = nnn.toNat ∧ t.S.pc = s.S.pc + 2 ∧ sameBut [.pc, .I] s t)

/-- ADD_I_VX and LD_FONT (rules R141, R142): I becomes the sum mod 65536, or five times Vx without masking; VF is not written (decisions D18,
D19). What the spec marks here as general knowledge is log 9. -/
def Obligations.IndexArithmeticSetsI : Prop :=
  ∀ x : Reg, decode (0xF#4 ++ regBits x ++ 0x1E#8) = .ok (.addIVx x) ∧
    decode (0xF#4 ++ regBits x ++ 0x29#8) = .ok (.ldFont x) ∧ ∀ s : State,
    Completes (exec (.addIVx x) s) (fun t =>
      t.S.I.toNat = (s.S.I.toNat + (s.S.readV x).toNat) % 65536 ∧ t.S.pc = s.S.pc + 2 ∧ sameBut [.pc, .I] s t) ∧
    Completes (exec (.ldFont x) s) (fun t =>
      t.S.I.toNat = 5 * (s.S.readV x).toNat ∧ t.S.pc = s.S.pc + 2 ∧ sameBut [.pc, .I] s t)

/-- BCD (rule R143; the bound and the reported address are decision D21): hundreds, tens and units of Vx at I, I + 1, I + 2 and no other byte; I
and the registers stay (decision D20); an extent above 0xFFF faults. -/
def Obligations.BcdStoresThreeDigits : Prop :=
  ∀ x : Reg, decode (0xF#4 ++ regBits x ++ 0x33#8) = .ok (.bcd x) ∧ ∀ s : State,
    let v := (s.S.readV x).toNat
    let a := s.S.dataAddr
    (a + 2 ≤ 0xFFF →
      Completes (exec (.bcd x) s) (fun t =>
        (Memory.read t.S.mem a).toNat = v / 100 ∧ (Memory.read t.S.mem (a + 1)).toNat = v / 10 % 10 ∧
        (Memory.read t.S.mem (a + 2)).toNat = v % 10 ∧
        (∀ b, b < a ∨ a + 2 < b → Memory.read t.S.mem b = Memory.read s.S.mem b) ∧
        t.S.pc = s.S.pc + 2 ∧ sameBut [.pc, .mem] s t)) ∧
    (0xFFF < a + 2 → exec (.bcd x) s = .fault (.boundsError .mem (if 0xFFF < a then s.S.I else 0x1000)))

/-- STORE_REGS (rule R144): V0 to Vx, x included, at I on and no other byte; I and the registers stay (decision D20); an extent above 0xFFF
faults (decision D21). -/
def Obligations.StoreRegsStoresBlock : Prop :=
  ∀ x : Reg, decode (0xF#4 ++ regBits x ++ 0x55#8) = .ok (.storeRegs x) ∧ ∀ s : State,
    let a := s.S.dataAddr
    (a + x.val ≤ 0xFFF →
      Completes (exec (.storeRegs x) s) (fun t =>
        (∀ j : Reg, j ≤ x → Memory.read t.S.mem (a + j.val) = s.S.readV j) ∧
        (∀ b, b < a ∨ a + x.val < b → Memory.read t.S.mem b = Memory.read s.S.mem b) ∧
        t.S.pc = s.S.pc + 2 ∧ sameBut [.pc, .mem] s t)) ∧
    (0xFFF < a + x.val →
      exec (.storeRegs x) s = .fault (.boundsError .mem (if 0xFFF < a then s.S.I else 0x1000)))

/-- LOAD_REGS (rule R145): V0 to Vx, x included, from I on, the registers above Vx and I kept (decision D20); an extent above 0xFFF faults
(decision D21). -/
def Obligations.LoadRegsLoadsBlock : Prop :=
  ∀ x : Reg, decode (0xF#4 ++ regBits x ++ 0x65#8) = .ok (.loadRegs x) ∧ ∀ s : State,
    let a := s.S.dataAddr
    (a + x.val ≤ 0xFFF →
      Completes (exec (.loadRegs x) s) (fun t =>
        (∀ j : Reg, t.S.readV j = if j ≤ x then Memory.read s.S.mem (a + j.val) else s.S.readV j) ∧
        t.S.pc = s.S.pc + 2 ∧ sameBut [.pc, .V] s t)) ∧
    (0xFFF < a + x.val →
      exec (.loadRegs x) s = .fault (.boundsError .mem (if 0xFFF < a then s.S.I else 0x1000)))

/-! ## The display -/

/-- CLS (rule R150): every pixel unset, draw_flag set whatever the picture was, VF and everything else but pc kept. -/
def Obligations.ClsClearsFrame : Prop :=
  decode 0x00E0 = .ok .cls ∧ ∀ s : State,
    Completes (exec .cls s) (fun t =>
      (∀ r c, FrameBuffer.get t.S.fb r c = false) ∧ t.S.drawFlag = true ∧ t.S.pc = s.S.pc + 2 ∧
      sameBut [.pc, .fb, .drawFlag] s t)

/-- DRW (rules R151, R152; start coordinates and bit order are decision D23, the bound D21): every pixel is inverted exactly where the sprite has a
set bit, wrapping at both edges; VF is 1 exactly when some set pixel becomes unset; draw_flag is set; the coordinates are the old
values of Vx and Vy; with no rows nothing is read and it cannot fault; an extent above 0xFFF faults.
What the spec marks here as general knowledge is log 9. -/
def Obligations.DrwXorsSpriteAndFlagsCollision : Prop :=
  ∀ (x y : Reg) (n : BitVec 4), decode (0xD#4 ++ regBits x ++ regBits y ++ n) = .ok (.drw x y n.toNat) ∧ ∀ s : State,
    let bit := spriteBit s.S n.toNat (s.S.readV x).toNat (s.S.readV y).toNat
    let a := s.S.dataAddr
    ((n = 0 ∨ a + n.toNat ≤ 0x1000) →
      Completes (exec (.drw x y n.toNat) s) (fun t =>
        (∀ r c, FrameBuffer.get t.S.fb r c = (FrameBuffer.get s.S.fb r c ^^ bit r c)) ∧
        ((∃ r c, FrameBuffer.get s.S.fb r c = true ∧ bit r c = true) → setsReg 15 1 s t) ∧
        ((¬ ∃ r c, FrameBuffer.get s.S.fb r c = true ∧ bit r c = true) → setsReg 15 0 s t) ∧
        t.S.drawFlag = true ∧ t.S.pc = s.S.pc + 2 ∧ sameBut [.pc, .V, .fb, .drawFlag] s t)) ∧
    (n ≠ 0 → 0x1000 < a + n.toNat →
      exec (.drw x y n.toNat) s = .fault (.boundsError .mem (if 0xFFF < a then s.S.I else 0x1000)))

/-- The same DRW twice restores the picture, when neither coordinate is VF, and the second collision flag is 1 exactly when the first draw left a
pixel of the sprite set (rule R153 b). -/
def Obligations.DrwTwiceRestoresFrame : Prop :=
  ∀ (x y : Reg) (n : BitVec 4) (s : State), x ≠ 15 → y ≠ 15 →
    (n = 0 ∨ s.S.dataAddr + n.toNat ≤ 0x1000) →
    let bit := spriteBit s.S n.toNat (s.S.readV x).toNat (s.S.readV y).toNat
    Completes (exec (.drw x y n.toNat) s) (fun t =>
      Completes (exec (.drw x y n.toNat) t) (fun u =>
        (∀ r c, FrameBuffer.get u.S.fb r c = FrameBuffer.get s.S.fb r c) ∧
        (u.S.readV 15 = 1 ↔ ∃ r c, bit r c = true ∧ FrameBuffer.get s.S.fb r c = false)))

/-! ## Timer moves and key wait -/

/-- LD_VX_DT, LD_DT_VX, LD_ST_VX (rules R160, R162, R163): the byte is moved and nothing else but pc changes; DC is not touched.
What the spec marks here as general knowledge is log 9. -/
def Obligations.TimerMovesCopyByte : Prop :=
  ∀ x : Reg, decode (0xF#4 ++ regBits x ++ 0x07#8) = .ok (.ldVxDt x) ∧
    decode (0xF#4 ++ regBits x ++ 0x15#8) = .ok (.ldDtVx x) ∧
    decode (0xF#4 ++ regBits x ++ 0x18#8) = .ok (.ldStVx x) ∧ ∀ s : State,
    Completes (exec (.ldVxDt x) s) (fun t =>
      setsReg x s.S.DT s t ∧ t.S.pc = s.S.pc + 2 ∧ sameBut [.pc, .V] s t) ∧
    Completes (exec (.ldDtVx x) s) (fun t =>
      t.S.DT = s.S.readV x ∧ t.S.pc = s.S.pc + 2 ∧ sameBut [.pc, .DT] s t) ∧
    Completes (exec (.ldStVx x) s) (fun t =>
      t.S.ST = s.S.readV x ∧ t.S.pc = s.S.pc + 2 ∧ sameBut [.pc, .ST] s t)

/-- WAIT_KEY (rule R161): the register is noted, pc advances and nothing else changes; that a held key does not satisfy the wait is decision D28:
the keys play no part. -/
def Obligations.WaitKeySetsAwaitedRegister : Prop :=
  ∀ x : Reg, decode (0xF#4 ++ regBits x ++ 0x0A#8) = .ok (.waitKey x) ∧ ∀ s : State,
    Completes (exec (.waitKey x) s) (fun t =>
      t.S.waitReg = some x ∧ t.S.pc = s.S.pc + 2 ∧ sameBut [.pc, .waitReg] s t)

/-! ## The invariant -/

/-- The engine after reset meets the invariant (rules R49, R50). -/
def Obligations.ResetIsSound : Prop := State.reset.sound

/-- Every step, whatever command it performs, keeps the invariant of rule R50, stated with a bound on the stack slots and the canonical form of
memory: in the live state and in every archived one SP is at most 16, DC is below the divider, pc at most 0x10FE; the history is
within its capacity and no archived state holds a key. -/
def Obligations.StepKeepsSoundness : Prop :=
  ∀ s t : State, s.sound → step s = .next t → t.sound
end

