-- ==== Sys2Proof/Laws/Decode.lean ====
section
/-!
SUPPORT. The fields of an encoded word: what the decoder reads from each format (rules R81, R82 of spec/30_encoding.md), and
that every word is put together from its fields again.
-/

namespace Sys2Proof

@[simp] theorem regBits_toFin (r : Reg) : (regBits r).toFin = r := rfl

@[simp] theorem opKey_encNnn (key : BitVec 4) (nnn : Addr) : opKey (encNnn key nnn) = key := by
  unfold opKey encNnn
  rw [BitVec.extractLsb'_append_eq_of_le (by omega)]
  simp

@[simp] theorem opNnn_encNnn (key : BitVec 4) (nnn : Addr) : opNnn (encNnn key nnn) = nnn := by
  unfold opNnn encNnn
  rw [BitVec.extractLsb'_append_eq_of_add_le (by omega)]
  simp

@[simp] theorem opKey_encXkk (key : BitVec 4) (x : Reg) (kk : Byte) : opKey (encXkk key x kk) = key := by
  unfold opKey encXkk
  rw [BitVec.extractLsb'_append_eq_of_le (by omega), BitVec.extractLsb'_append_eq_of_le (by omega)]
  simp

@[simp] theorem opX_encXkk (key : BitVec 4) (x : Reg) (kk : Byte) : opX (encXkk key x kk) = x := by
  unfold opX encXkk
  rw [BitVec.extractLsb'_append_eq_of_le (by omega), BitVec.extractLsb'_append_eq_of_add_le (by omega)]
  simp

@[simp] theorem opKk_encXkk (key : BitVec 4) (x : Reg) (kk : Byte) : opKk (encXkk key x kk) = kk := by
  unfold opKk encXkk
  rw [BitVec.extractLsb'_append_eq_of_add_le (by omega)]
  simp

@[simp] theorem opKey_encXyn (key : BitVec 4) (x y : Reg) (n : BitVec 4) : opKey (encXyn key x y n) = key := by
  unfold opKey encXyn
  rw [BitVec.extractLsb'_append_eq_of_le (by omega), BitVec.extractLsb'_append_eq_of_le (by omega),
    BitVec.extractLsb'_append_eq_of_le (by omega)]
  simp

@[simp] theorem opX_encXyn (key : BitVec 4) (x y : Reg) (n : BitVec 4) : opX (encXyn key x y n) = x := by
  unfold opX encXyn
  rw [BitVec.extractLsb'_append_eq_of_le (by omega), BitVec.extractLsb'_append_eq_of_le (by omega),
    BitVec.extractLsb'_append_eq_of_add_le (by omega)]
  simp

@[simp] theorem opY_encXyn (key : BitVec 4) (x y : Reg) (n : BitVec 4) : opY (encXyn key x y n) = y := by
  unfold opY encXyn
  rw [BitVec.extractLsb'_append_eq_of_le (by omega), BitVec.extractLsb'_append_eq_of_add_le (by omega)]
  simp

@[simp] theorem opN_encXyn (key : BitVec 4) (x y : Reg) (n : BitVec 4) : opN (encXyn key x y n) = n := by
  unfold opN encXyn
  rw [BitVec.extractLsb'_append_eq_of_add_le (by omega)]
  simp

/-- A word is its key and its address field. -/
theorem encNnn_fields (op : Word) : encNnn (opKey op) (opNnn op) = op := by
  refine BitVec.eq_of_getLsbD_eq fun i hi => ?_
  simp only [encNnn, opKey, opNnn, BitVec.getLsbD_append, BitVec.getLsbD_extractLsb']
  split
  · simp [*]
  · simp [show 12 + (i - 12) = i by omega, show i - 12 < 4 by omega]

theorem regBits_opX (op : Word) : regBits (opX op) = op.extractLsb' 8 4 := rfl

theorem regBits_opY (op : Word) : regBits (opY op) = op.extractLsb' 4 4 := rfl

/-- A word is its key, its x field and its low byte. -/
theorem encXkk_fields (op : Word) : encXkk (opKey op) (opX op) (opKk op) = op := by
  refine BitVec.eq_of_getLsbD_eq fun i hi => ?_
  simp only [encXkk, opKey, regBits_opX, opKk, BitVec.getLsbD_append, BitVec.getLsbD_extractLsb']
  split
  · simp [*]
  · split
    · simp [show 8 + (i - 8) = i by omega, *]
    · simp [show 12 + (i - 8 - 4) = i by omega, show i - 8 - 4 < 4 by omega]

/-- A word is its four nibbles. -/
theorem encXyn_fields (op : Word) : encXyn (opKey op) (opX op) (opY op) (opN op) = op := by
  refine BitVec.eq_of_getLsbD_eq fun i hi => ?_
  simp only [encXyn, opKey, regBits_opX, regBits_opY, opN, BitVec.getLsbD_append, BitVec.getLsbD_extractLsb']
  split
  · simp [*]
  · split
    · simp [show 4 + (i - 4) = i by omega, *]
    · split
      · simp [show 8 + (i - 4 - 4) = i by omega, *]
      · simp [show 12 + (i - 4 - 4 - 4) = i by omega, show i - 4 - 4 - 4 < 4 by omega]

/-- The bytes of a word, put together again. -/
theorem wordOfBytes_bytesOfWord (op : Word) : wordOfBytes (op.extractLsb' 8 8) (op.extractLsb' 0 8) = op := by
  refine BitVec.eq_of_getLsbD_eq fun i hi => ?_
  simp only [wordOfBytes, BitVec.getLsbD_append, BitVec.getLsbD_extractLsb']
  split
  · simp [*]
  · simp [show 8 + (i - 8) = i by omega, show i - 8 < 8 by omega]

end Sys2Proof
end

