-- ==== Sys2Proof/Laws/Memory.lean ====
section
/-!
SUPPORT. Memory: what a read gives after a write, that every operation keeps the canonical form, and what MemRead and MemWrite can
answer (rules R62, R63 of spec/20_memory.md).
-/

namespace Sys2Proof.Machine

@[simp] theorem Memory.read_nil (a : Nat) : Memory.read [] a = Memory.unlisted a := rfl

theorem Memory.read_cons (c : Host.Cell) (m : Memory) (a : Nat) :
    Memory.read (c :: m) a = if a = c.1 then c.2 else Memory.read m a := rfl

theorem Memory.wf_cons (c : Host.Cell) (m : Memory) :
    Memory.wf (c :: m) = true ↔
      c.1 < memorySize ∧ c.2 ≠ Memory.unlisted c.1 ∧ (∀ d ∈ m, c.1 < d.1) ∧ Memory.wf m = true := by
  obtain ⟨a, b⟩ := c
  simp [Memory.wf, and_assoc]

/-- An erased address reads as unlisted, every other as before. -/
theorem Memory.read_erase (m : Memory) (a x : Nat) :
    Memory.read (Memory.erase m a) x = if x = a then Memory.unlisted a else Memory.read m x := by
  induction m with
  | nil => by_cases hx : x = a <;> simp [Memory.erase, hx]
  | cons c m ih =>
    unfold Memory.erase at ih ⊢
    by_cases hc : c.1 = a
    · rw [List.filter_cons_of_neg (by simp [hc]), ih, Memory.read_cons]
      by_cases hx : x = a
      · simp [hx]
      · simp [hx, hc]
    · rw [List.filter_cons_of_pos (by simp [hc]), Memory.read_cons, ih, Memory.read_cons]
      by_cases hx : x = c.1
      · subst hx; simp [hc]
      · simp [hx]

/-- An inserted entry is read, where no entry for the address stood. -/
theorem Memory.read_insertCell (m : Memory) (a : Nat) (b : Byte) (hm : ∀ c ∈ m, c.1 ≠ a) (x : Nat) :
    Memory.read (Memory.insertCell m a b) x = if x = a then b else Memory.read m x := by
  induction m with
  | nil => rfl
  | cons c m ih =>
    simp only [Memory.insertCell]
    split
    · rfl
    · rw [Memory.read_cons, ih (fun d hd => hm d (by simp [hd])), Memory.read_cons]
      have hc := hm c (by simp)
      by_cases hx : x = c.1
      · subst hx; simp [hc]
      · simp [hx]

theorem Memory.mem_erase (m : Memory) (a : Nat) (c : Host.Cell) : c ∈ Memory.erase m a ↔ c ∈ m ∧ c.1 ≠ a := by
  simp [Memory.erase]

/-- A read after a write of one byte. -/
theorem Memory.read_write (m : Memory) (a : Nat) (b : Byte) (x : Nat) :
    Memory.read (Memory.write m a b) x = if x = a then b else Memory.read m x := by
  unfold Memory.write
  split
  · rename_i hb
    rw [Memory.read_erase, hb]
  · rw [Memory.read_insertCell _ _ _ (fun c hc => ((Memory.mem_erase m a c).1 hc).2), Memory.read_erase]
    by_cases hx : x = a <;> simp [hx]

/-- A read after a write of a run of bytes. -/
theorem Memory.read_writeBytes (bs : List Byte) (m : Memory) (a x : Nat) :
    Memory.read (Memory.writeBytes m a bs) x =
      if a ≤ x ∧ x < a + bs.length then bs.getD (x - a) 0 else Memory.read m x := by
  induction bs generalizing m a with
  | nil => simp [Memory.writeBytes]
  | cons b bs ih =>
    rw [Memory.writeBytes, ih, Memory.read_write]
    by_cases hx : x = a
    · subst hx; simp
    · by_cases h : a + 1 ≤ x ∧ x < a + 1 + bs.length
      · rw [if_pos h, if_pos (by simp; omega), show x - a = (x - (a + 1)) + 1 by omega]
        simp
      · rw [if_neg h, if_neg hx, if_neg (by simp; omega)]

theorem Memory.wf_erase (m : Memory) (a : Nat) (hm : Memory.wf m = true) : Memory.wf (Memory.erase m a) = true := by
  induction m with
  | nil => rfl
  | cons c m ih =>
    obtain ⟨h1, h2, hlt, hwf⟩ := (Memory.wf_cons _ _).1 hm
    have ih := ih hwf
    by_cases hc : c.1 = a
    · simpa [Memory.erase, hc] using ih
    · have : Memory.erase (c :: m) a = c :: Memory.erase m a := by simp [Memory.erase, hc]
      rw [this]
      exact (Memory.wf_cons _ _).2 ⟨h1, h2, fun d hd => hlt d ((Memory.mem_erase m a d).1 hd).1, ih⟩

theorem Memory.mem_insertCell (m : Memory) (a : Nat) (b : Byte) (d : Host.Cell)
    (h : d ∈ Memory.insertCell m a b) : d = (a, b) ∨ d ∈ m := by
  induction m with
  | nil => simpa [Memory.insertCell] using h
  | cons c m ih =>
    simp only [Memory.insertCell] at h
    split at h
    · simpa using h
    · rcases List.mem_cons.1 h with rfl | h
      · simp
      · rcases ih h with h | h <;> simp [h]

theorem Memory.wf_insertCell (m : Memory) (a : Nat) (b : Byte) (hm : Memory.wf m = true) (ha : a < memorySize)
    (hb : b ≠ Memory.unlisted a) (hn : ∀ c ∈ m, c.1 ≠ a) : Memory.wf (Memory.insertCell m a b) = true := by
  induction m with
  | nil => exact (Memory.wf_cons _ _).2 ⟨ha, hb, by simp, rfl⟩
  | cons c m ih =>
    obtain ⟨h1, h2, hlt, hwf⟩ := (Memory.wf_cons _ _).1 hm
    have hc := hn c (by simp)
    simp only [Memory.insertCell]
    split
    · rename_i h
      refine (Memory.wf_cons _ _).2 ⟨ha, hb, fun d hd => ?_, hm⟩
      rcases List.mem_cons.1 hd with rfl | hd
      · exact h
      · exact lt_trans h (hlt d hd)
    · refine (Memory.wf_cons _ _).2 ⟨h1, h2, fun d hd => ?_, ih hwf (fun d hd => hn d (by simp [hd]))⟩
      rcases Memory.mem_insertCell m a b d hd with rfl | h
      · simp only; omega
      · exact hlt d h

/-- A write inside memory keeps the canonical form. -/
theorem Memory.wf_write (m : Memory) (hm : Memory.wf m = true) (a : Nat) (b : Byte) (ha : a < memorySize) :
    Memory.wf (Memory.write m a b) = true := by
  unfold Memory.write
  split
  · exact Memory.wf_erase m a hm
  · rename_i hb
    exact Memory.wf_insertCell _ a b (Memory.wf_erase m a hm) ha hb (fun c hc => ((Memory.mem_erase m a c).1 hc).2)

/-- A run of bytes inside memory keeps the canonical form. -/
theorem Memory.wf_writeBytes (bs : List Byte) (m : Memory) (hm : Memory.wf m = true) (a : Nat)
    (ha : bs = [] ∨ a + bs.length ≤ memorySize) : Memory.wf (Memory.writeBytes m a bs) = true := by
  induction bs generalizing m a with
  | nil => exact hm
  | cons b bs ih =>
    simp only [List.length_cons, reduceCtorEq, false_or] at ha
    refine ih _ (Memory.wf_write m hm a b (by omega)) _ (.inr (by omega))

theorem Memory.wf_reset : Memory.wf MachineState.reset.mem = true := rfl

/-- MemWrite inside memory keeps the canonical form. -/
theorem memWrite_wf (m m' : Memory) (a : Nat) (bs : List Byte) (hm : Memory.wf m = true)
    (h : memWrite m a bs = .ok m') : Memory.wf m' = true := by
  unfold memWrite extentFault at h
  split at h
  · cases h
  · rename_i hf
    cases h
    refine Memory.wf_writeBytes bs m hm a ?_
    split at hf
    · cases hf
    · rename_i hc
      cases bs with
      | nil => exact .inl rfl
      | cons b bs => right; simp [memorySize] at hc ⊢; omega

@[simp] theorem Memory.readBytes_length (m : Memory) (a n : Nat) : (Memory.readBytes m a n).length = n := by
  induction n generalizing a with
  | zero => rfl
  | succ n ih => simp [Memory.readBytes, ih]

theorem Memory.readBytes_getD (m : Memory) (a n i : Nat) (hi : i < n) :
    (Memory.readBytes m a n).getD i 0 = Memory.read m (a + i) := by
  induction n generalizing a i with
  | zero => omega
  | succ n ih =>
    cases i with
    | zero => simp [Memory.readBytes]
    | succ i => simpa [Memory.readBytes, Nat.add_assoc, Nat.add_comm 1] using ih (a + 1) i (by omega)

/-- Everything MemRead can answer: the bytes of an extent inside memory, or the bounds fault (rule R62). -/
theorem memRead_cases (m : Memory) (a n : Nat) :
    ((n = 0 ∨ a + n ≤ 0x1000) ∧ memRead m a n = .ok (Memory.readBytes m a n)) ∨
    (n ≠ 0 ∧ 0x1000 < a + n ∧
      memRead m a n = .error (.boundsError .mem (BitVec.ofNat 16 (lowestInvalid a)))) := by
  unfold memRead extentFault
  by_cases h : n ≠ 0 ∧ 0xFFF < a + n - 1
  · right
    exact ⟨h.1, by omega, by rw [if_pos h]⟩
  · left
    exact ⟨by omega, by rw [if_neg h]⟩

/-- Everything MemWrite can answer: the bytes stored, or the bounds fault (rule R63). -/
theorem memWrite_cases (m : Memory) (a : Nat) (bs : List Byte) :
    ((bs = [] ∨ a + bs.length ≤ 0x1000) ∧ memWrite m a bs = .ok (Memory.writeBytes m a bs)) ∨
    (bs ≠ [] ∧ 0x1000 < a + bs.length ∧
      memWrite m a bs = .error (.boundsError .mem (BitVec.ofNat 16 (lowestInvalid a)))) := by
  unfold memWrite extentFault
  have he : bs = [] ↔ bs.length = 0 := by simp
  by_cases h : bs.length ≠ 0 ∧ 0xFFF < a + bs.length - 1
  · right
    exact ⟨by rw [ne_eq, he]; exact h.1, by omega, by rw [if_pos h]⟩
  · left
    exact ⟨by rw [he]; omega, by rw [if_neg h]⟩

end Sys2Proof.Machine
end

