-- ==== Sys2Proof/Laws/State.lean ====
section
/-!
SUPPORT. One lemma per field per update of the state, each true by rfl, so that no proof unfolds a record update; and what the
register and key accessors read after each update.
-/

namespace Sys2Proof.Machine

/-! ### setV -/

@[simp] theorem MachineState.setV_V (m : MachineState) (V : Vector Byte 16) : (m.setV V).V = V := rfl
@[simp] theorem MachineState.setV_I (m : MachineState) (V : Vector Byte 16) : (m.setV V).I = m.I := rfl
@[simp] theorem MachineState.setV_pc (m : MachineState) (V : Vector Byte 16) : (m.setV V).pc = m.pc := rfl
@[simp] theorem MachineState.setV_SP (m : MachineState) (V : Vector Byte 16) : (m.setV V).SP = m.SP := rfl
@[simp] theorem MachineState.setV_stack (m : MachineState) (V : Vector Byte 16) : (m.setV V).stack = m.stack := rfl
@[simp] theorem MachineState.setV_mem (m : MachineState) (V : Vector Byte 16) : (m.setV V).mem = m.mem := rfl
@[simp] theorem MachineState.setV_fb (m : MachineState) (V : Vector Byte 16) : (m.setV V).fb = m.fb := rfl
@[simp] theorem MachineState.setV_drawFlag (m : MachineState) (V : Vector Byte 16) : (m.setV V).drawFlag = m.drawFlag := rfl
@[simp] theorem MachineState.setV_DT (m : MachineState) (V : Vector Byte 16) : (m.setV V).DT = m.DT := rfl
@[simp] theorem MachineState.setV_ST (m : MachineState) (V : Vector Byte 16) : (m.setV V).ST = m.ST := rfl
@[simp] theorem MachineState.setV_DC (m : MachineState) (V : Vector Byte 16) : (m.setV V).DC = m.DC := rfl
@[simp] theorem MachineState.setV_keys (m : MachineState) (V : Vector Byte 16) : (m.setV V).keys = m.keys := rfl
@[simp] theorem MachineState.setV_waitReg (m : MachineState) (V : Vector Byte 16) : (m.setV V).waitReg = m.waitReg := rfl
@[simp] theorem MachineState.setV_keyHeld (m : MachineState) (V : Vector Byte 16) (j : Reg) : (m.setV V).keyHeld j = m.keyHeld j := rfl

/-! ### writeV -/

@[simp] theorem MachineState.writeV_V (m : MachineState) (r : Reg) (b : Byte) : (m.writeV r b).V = m.V.set r.val b r.isLt := rfl
@[simp] theorem MachineState.writeV_I (m : MachineState) (r : Reg) (b : Byte) : (m.writeV r b).I = m.I := rfl
@[simp] theorem MachineState.writeV_pc (m : MachineState) (r : Reg) (b : Byte) : (m.writeV r b).pc = m.pc := rfl
@[simp] theorem MachineState.writeV_SP (m : MachineState) (r : Reg) (b : Byte) : (m.writeV r b).SP = m.SP := rfl
@[simp] theorem MachineState.writeV_stack (m : MachineState) (r : Reg) (b : Byte) : (m.writeV r b).stack = m.stack := rfl
@[simp] theorem MachineState.writeV_mem (m : MachineState) (r : Reg) (b : Byte) : (m.writeV r b).mem = m.mem := rfl
@[simp] theorem MachineState.writeV_fb (m : MachineState) (r : Reg) (b : Byte) : (m.writeV r b).fb = m.fb := rfl
@[simp] theorem MachineState.writeV_drawFlag (m : MachineState) (r : Reg) (b : Byte) : (m.writeV r b).drawFlag = m.drawFlag := rfl
@[simp] theorem MachineState.writeV_DT (m : MachineState) (r : Reg) (b : Byte) : (m.writeV r b).DT = m.DT := rfl
@[simp] theorem MachineState.writeV_ST (m : MachineState) (r : Reg) (b : Byte) : (m.writeV r b).ST = m.ST := rfl
@[simp] theorem MachineState.writeV_DC (m : MachineState) (r : Reg) (b : Byte) : (m.writeV r b).DC = m.DC := rfl
@[simp] theorem MachineState.writeV_keys (m : MachineState) (r : Reg) (b : Byte) : (m.writeV r b).keys = m.keys := rfl
@[simp] theorem MachineState.writeV_waitReg (m : MachineState) (r : Reg) (b : Byte) : (m.writeV r b).waitReg = m.waitReg := rfl
@[simp] theorem MachineState.writeV_keyHeld (m : MachineState) (r : Reg) (b : Byte) (j : Reg) : (m.writeV r b).keyHeld j = m.keyHeld j := rfl

/-! ### setI -/

@[simp] theorem MachineState.setI_V (m : MachineState) (w : Word) : (m.setI w).V = m.V := rfl
@[simp] theorem MachineState.setI_I (m : MachineState) (w : Word) : (m.setI w).I = w := rfl
@[simp] theorem MachineState.setI_pc (m : MachineState) (w : Word) : (m.setI w).pc = m.pc := rfl
@[simp] theorem MachineState.setI_SP (m : MachineState) (w : Word) : (m.setI w).SP = m.SP := rfl
@[simp] theorem MachineState.setI_stack (m : MachineState) (w : Word) : (m.setI w).stack = m.stack := rfl
@[simp] theorem MachineState.setI_mem (m : MachineState) (w : Word) : (m.setI w).mem = m.mem := rfl
@[simp] theorem MachineState.setI_fb (m : MachineState) (w : Word) : (m.setI w).fb = m.fb := rfl
@[simp] theorem MachineState.setI_drawFlag (m : MachineState) (w : Word) : (m.setI w).drawFlag = m.drawFlag := rfl
@[simp] theorem MachineState.setI_DT (m : MachineState) (w : Word) : (m.setI w).DT = m.DT := rfl
@[simp] theorem MachineState.setI_ST (m : MachineState) (w : Word) : (m.setI w).ST = m.ST := rfl
@[simp] theorem MachineState.setI_DC (m : MachineState) (w : Word) : (m.setI w).DC = m.DC := rfl
@[simp] theorem MachineState.setI_keys (m : MachineState) (w : Word) : (m.setI w).keys = m.keys := rfl
@[simp] theorem MachineState.setI_waitReg (m : MachineState) (w : Word) : (m.setI w).waitReg = m.waitReg := rfl
@[simp] theorem MachineState.setI_readV (m : MachineState) (w : Word) (j : Reg) : (m.setI w).readV j = m.readV j := rfl
@[simp] theorem MachineState.setI_keyHeld (m : MachineState) (w : Word) (j : Reg) : (m.setI w).keyHeld j = m.keyHeld j := rfl

/-! ### setPc -/

@[simp] theorem MachineState.setPc_V (m : MachineState) (w : Word) : (m.setPc w).V = m.V := rfl
@[simp] theorem MachineState.setPc_I (m : MachineState) (w : Word) : (m.setPc w).I = m.I := rfl
@[simp] theorem MachineState.setPc_pc (m : MachineState) (w : Word) : (m.setPc w).pc = w := rfl
@[simp] theorem MachineState.setPc_SP (m : MachineState) (w : Word) : (m.setPc w).SP = m.SP := rfl
@[simp] theorem MachineState.setPc_stack (m : MachineState) (w : Word) : (m.setPc w).stack = m.stack := rfl
@[simp] theorem MachineState.setPc_mem (m : MachineState) (w : Word) : (m.setPc w).mem = m.mem := rfl
@[simp] theorem MachineState.setPc_fb (m : MachineState) (w : Word) : (m.setPc w).fb = m.fb := rfl
@[simp] theorem MachineState.setPc_drawFlag (m : MachineState) (w : Word) : (m.setPc w).drawFlag = m.drawFlag := rfl
@[simp] theorem MachineState.setPc_DT (m : MachineState) (w : Word) : (m.setPc w).DT = m.DT := rfl
@[simp] theorem MachineState.setPc_ST (m : MachineState) (w : Word) : (m.setPc w).ST = m.ST := rfl
@[simp] theorem MachineState.setPc_DC (m : MachineState) (w : Word) : (m.setPc w).DC = m.DC := rfl
@[simp] theorem MachineState.setPc_keys (m : MachineState) (w : Word) : (m.setPc w).keys = m.keys := rfl
@[simp] theorem MachineState.setPc_waitReg (m : MachineState) (w : Word) : (m.setPc w).waitReg = m.waitReg := rfl
@[simp] theorem MachineState.setPc_readV (m : MachineState) (w : Word) (j : Reg) : (m.setPc w).readV j = m.readV j := rfl
@[simp] theorem MachineState.setPc_keyHeld (m : MachineState) (w : Word) (j : Reg) : (m.setPc w).keyHeld j = m.keyHeld j := rfl

/-! ### advance -/

@[simp] theorem MachineState.advance_V (m : MachineState) : (m.advance).V = m.V := rfl
@[simp] theorem MachineState.advance_I (m : MachineState) : (m.advance).I = m.I := rfl
@[simp] theorem MachineState.advance_pc (m : MachineState) : (m.advance).pc = m.pc + 2 := rfl
@[simp] theorem MachineState.advance_SP (m : MachineState) : (m.advance).SP = m.SP := rfl
@[simp] theorem MachineState.advance_stack (m : MachineState) : (m.advance).stack = m.stack := rfl
@[simp] theorem MachineState.advance_mem (m : MachineState) : (m.advance).mem = m.mem := rfl
@[simp] theorem MachineState.advance_fb (m : MachineState) : (m.advance).fb = m.fb := rfl
@[simp] theorem MachineState.advance_drawFlag (m : MachineState) : (m.advance).drawFlag = m.drawFlag := rfl
@[simp] theorem MachineState.advance_DT (m : MachineState) : (m.advance).DT = m.DT := rfl
@[simp] theorem MachineState.advance_ST (m : MachineState) : (m.advance).ST = m.ST := rfl
@[simp] theorem MachineState.advance_DC (m : MachineState) : (m.advance).DC = m.DC := rfl
@[simp] theorem MachineState.advance_keys (m : MachineState) : (m.advance).keys = m.keys := rfl
@[simp] theorem MachineState.advance_waitReg (m : MachineState) : (m.advance).waitReg = m.waitReg := rfl
@[simp] theorem MachineState.advance_readV (m : MachineState) (j : Reg) : (m.advance).readV j = m.readV j := rfl
@[simp] theorem MachineState.advance_keyHeld (m : MachineState) (j : Reg) : (m.advance).keyHeld j = m.keyHeld j := rfl

/-! ### skipIf -/

@[simp] theorem MachineState.skipIf_V (m : MachineState) (c : Bool) : (m.skipIf c).V = m.V := rfl
@[simp] theorem MachineState.skipIf_I (m : MachineState) (c : Bool) : (m.skipIf c).I = m.I := rfl
@[simp] theorem MachineState.skipIf_pc (m : MachineState) (c : Bool) : (m.skipIf c).pc = if c then m.pc + 4 else m.pc + 2 := rfl
@[simp] theorem MachineState.skipIf_SP (m : MachineState) (c : Bool) : (m.skipIf c).SP = m.SP := rfl
@[simp] theorem MachineState.skipIf_stack (m : MachineState) (c : Bool) : (m.skipIf c).stack = m.stack := rfl
@[simp] theorem MachineState.skipIf_mem (m : MachineState) (c : Bool) : (m.skipIf c).mem = m.mem := rfl
@[simp] theorem MachineState.skipIf_fb (m : MachineState) (c : Bool) : (m.skipIf c).fb = m.fb := rfl
@[simp] theorem MachineState.skipIf_drawFlag (m : MachineState) (c : Bool) : (m.skipIf c).drawFlag = m.drawFlag := rfl
@[simp] theorem MachineState.skipIf_DT (m : MachineState) (c : Bool) : (m.skipIf c).DT = m.DT := rfl
@[simp] theorem MachineState.skipIf_ST (m : MachineState) (c : Bool) : (m.skipIf c).ST = m.ST := rfl
@[simp] theorem MachineState.skipIf_DC (m : MachineState) (c : Bool) : (m.skipIf c).DC = m.DC := rfl
@[simp] theorem MachineState.skipIf_keys (m : MachineState) (c : Bool) : (m.skipIf c).keys = m.keys := rfl
@[simp] theorem MachineState.skipIf_waitReg (m : MachineState) (c : Bool) : (m.skipIf c).waitReg = m.waitReg := rfl
@[simp] theorem MachineState.skipIf_readV (m : MachineState) (c : Bool) (j : Reg) : (m.skipIf c).readV j = m.readV j := rfl
@[simp] theorem MachineState.skipIf_keyHeld (m : MachineState) (c : Bool) (j : Reg) : (m.skipIf c).keyHeld j = m.keyHeld j := rfl

/-! ### setMem -/

@[simp] theorem MachineState.setMem_V (m : MachineState) (mem : Memory) : (m.setMem mem).V = m.V := rfl
@[simp] theorem MachineState.setMem_I (m : MachineState) (mem : Memory) : (m.setMem mem).I = m.I := rfl
@[simp] theorem MachineState.setMem_pc (m : MachineState) (mem : Memory) : (m.setMem mem).pc = m.pc := rfl
@[simp] theorem MachineState.setMem_SP (m : MachineState) (mem : Memory) : (m.setMem mem).SP = m.SP := rfl
@[simp] theorem MachineState.setMem_stack (m : MachineState) (mem : Memory) : (m.setMem mem).stack = m.stack := rfl
@[simp] theorem MachineState.setMem_mem (m : MachineState) (mem : Memory) : (m.setMem mem).mem = mem := rfl
@[simp] theorem MachineState.setMem_fb (m : MachineState) (mem : Memory) : (m.setMem mem).fb = m.fb := rfl
@[simp] theorem MachineState.setMem_drawFlag (m : MachineState) (mem : Memory) : (m.setMem mem).drawFlag = m.drawFlag := rfl
@[simp] theorem MachineState.setMem_DT (m : MachineState) (mem : Memory) : (m.setMem mem).DT = m.DT := rfl
@[simp] theorem MachineState.setMem_ST (m : MachineState) (mem : Memory) : (m.setMem mem).ST = m.ST := rfl
@[simp] theorem MachineState.setMem_DC (m : MachineState) (mem : Memory) : (m.setMem mem).DC = m.DC := rfl
@[simp] theorem MachineState.setMem_keys (m : MachineState) (mem : Memory) : (m.setMem mem).keys = m.keys := rfl
@[simp] theorem MachineState.setMem_waitReg (m : MachineState) (mem : Memory) : (m.setMem mem).waitReg = m.waitReg := rfl
@[simp] theorem MachineState.setMem_readV (m : MachineState) (mem : Memory) (j : Reg) : (m.setMem mem).readV j = m.readV j := rfl
@[simp] theorem MachineState.setMem_keyHeld (m : MachineState) (mem : Memory) (j : Reg) : (m.setMem mem).keyHeld j = m.keyHeld j := rfl

/-! ### setFb -/

@[simp] theorem MachineState.setFb_V (m : MachineState) (f : FrameBuffer) : (m.setFb f).V = m.V := rfl
@[simp] theorem MachineState.setFb_I (m : MachineState) (f : FrameBuffer) : (m.setFb f).I = m.I := rfl
@[simp] theorem MachineState.setFb_pc (m : MachineState) (f : FrameBuffer) : (m.setFb f).pc = m.pc := rfl
@[simp] theorem MachineState.setFb_SP (m : MachineState) (f : FrameBuffer) : (m.setFb f).SP = m.SP := rfl
@[simp] theorem MachineState.setFb_stack (m : MachineState) (f : FrameBuffer) : (m.setFb f).stack = m.stack := rfl
@[simp] theorem MachineState.setFb_mem (m : MachineState) (f : FrameBuffer) : (m.setFb f).mem = m.mem := rfl
@[simp] theorem MachineState.setFb_fb (m : MachineState) (f : FrameBuffer) : (m.setFb f).fb = f := rfl
@[simp] theorem MachineState.setFb_drawFlag (m : MachineState) (f : FrameBuffer) : (m.setFb f).drawFlag = true := rfl
@[simp] theorem MachineState.setFb_DT (m : MachineState) (f : FrameBuffer) : (m.setFb f).DT = m.DT := rfl
@[simp] theorem MachineState.setFb_ST (m : MachineState) (f : FrameBuffer) : (m.setFb f).ST = m.ST := rfl
@[simp] theorem MachineState.setFb_DC (m : MachineState) (f : FrameBuffer) : (m.setFb f).DC = m.DC := rfl
@[simp] theorem MachineState.setFb_keys (m : MachineState) (f : FrameBuffer) : (m.setFb f).keys = m.keys := rfl
@[simp] theorem MachineState.setFb_waitReg (m : MachineState) (f : FrameBuffer) : (m.setFb f).waitReg = m.waitReg := rfl
@[simp] theorem MachineState.setFb_readV (m : MachineState) (f : FrameBuffer) (j : Reg) : (m.setFb f).readV j = m.readV j := rfl
@[simp] theorem MachineState.setFb_keyHeld (m : MachineState) (f : FrameBuffer) (j : Reg) : (m.setFb f).keyHeld j = m.keyHeld j := rfl

/-! ### clearDrawFlag -/

@[simp] theorem MachineState.clearDrawFlag_V (m : MachineState) : (m.clearDrawFlag).V = m.V := rfl
@[simp] theorem MachineState.clearDrawFlag_I (m : MachineState) : (m.clearDrawFlag).I = m.I := rfl
@[simp] theorem MachineState.clearDrawFlag_pc (m : MachineState) : (m.clearDrawFlag).pc = m.pc := rfl
@[simp] theorem MachineState.clearDrawFlag_SP (m : MachineState) : (m.clearDrawFlag).SP = m.SP := rfl
@[simp] theorem MachineState.clearDrawFlag_stack (m : MachineState) : (m.clearDrawFlag).stack = m.stack := rfl
@[simp] theorem MachineState.clearDrawFlag_mem (m : MachineState) : (m.clearDrawFlag).mem = m.mem := rfl
@[simp] theorem MachineState.clearDrawFlag_fb (m : MachineState) : (m.clearDrawFlag).fb = m.fb := rfl
@[simp] theorem MachineState.clearDrawFlag_drawFlag (m : MachineState) : (m.clearDrawFlag).drawFlag = false := rfl
@[simp] theorem MachineState.clearDrawFlag_DT (m : MachineState) : (m.clearDrawFlag).DT = m.DT := rfl
@[simp] theorem MachineState.clearDrawFlag_ST (m : MachineState) : (m.clearDrawFlag).ST = m.ST := rfl
@[simp] theorem MachineState.clearDrawFlag_DC (m : MachineState) : (m.clearDrawFlag).DC = m.DC := rfl
@[simp] theorem MachineState.clearDrawFlag_keys (m : MachineState) : (m.clearDrawFlag).keys = m.keys := rfl
@[simp] theorem MachineState.clearDrawFlag_waitReg (m : MachineState) : (m.clearDrawFlag).waitReg = m.waitReg := rfl
@[simp] theorem MachineState.clearDrawFlag_readV (m : MachineState) (j : Reg) : (m.clearDrawFlag).readV j = m.readV j := rfl
@[simp] theorem MachineState.clearDrawFlag_keyHeld (m : MachineState) (j : Reg) : (m.clearDrawFlag).keyHeld j = m.keyHeld j := rfl

/-! ### setDT -/

@[simp] theorem MachineState.setDT_V (m : MachineState) (b : Byte) : (m.setDT b).V = m.V := rfl
@[simp] theorem MachineState.setDT_I (m : MachineState) (b : Byte) : (m.setDT b).I = m.I := rfl
@[simp] theorem MachineState.setDT_pc (m : MachineState) (b : Byte) : (m.setDT b).pc = m.pc := rfl
@[simp] theorem MachineState.setDT_SP (m : MachineState) (b : Byte) : (m.setDT b).SP = m.SP := rfl
@[simp] theorem MachineState.setDT_stack (m : MachineState) (b : Byte) : (m.setDT b).stack = m.stack := rfl
@[simp] theorem MachineState.setDT_mem (m : MachineState) (b : Byte) : (m.setDT b).mem = m.mem := rfl
@[simp] theorem MachineState.setDT_fb (m : MachineState) (b : Byte) : (m.setDT b).fb = m.fb := rfl
@[simp] theorem MachineState.setDT_drawFlag (m : MachineState) (b : Byte) : (m.setDT b).drawFlag = m.drawFlag := rfl
@[simp] theorem MachineState.setDT_DT (m : MachineState) (b : Byte) : (m.setDT b).DT = b := rfl
@[simp] theorem MachineState.setDT_ST (m : MachineState) (b : Byte) : (m.setDT b).ST = m.ST := rfl
@[simp] theorem MachineState.setDT_DC (m : MachineState) (b : Byte) : (m.setDT b).DC = m.DC := rfl
@[simp] theorem MachineState.setDT_keys (m : MachineState) (b : Byte) : (m.setDT b).keys = m.keys := rfl
@[simp] theorem MachineState.setDT_waitReg (m : MachineState) (b : Byte) : (m.setDT b).waitReg = m.waitReg := rfl
@[simp] theorem MachineState.setDT_readV (m : MachineState) (b : Byte) (j : Reg) : (m.setDT b).readV j = m.readV j := rfl
@[simp] theorem MachineState.setDT_keyHeld (m : MachineState) (b : Byte) (j : Reg) : (m.setDT b).keyHeld j = m.keyHeld j := rfl

/-! ### setST -/

@[simp] theorem MachineState.setST_V (m : MachineState) (b : Byte) : (m.setST b).V = m.V := rfl
@[simp] theorem MachineState.setST_I (m : MachineState) (b : Byte) : (m.setST b).I = m.I := rfl
@[simp] theorem MachineState.setST_pc (m : MachineState) (b : Byte) : (m.setST b).pc = m.pc := rfl
@[simp] theorem MachineState.setST_SP (m : MachineState) (b : Byte) : (m.setST b).SP = m.SP := rfl
@[simp] theorem MachineState.setST_stack (m : MachineState) (b : Byte) : (m.setST b).stack = m.stack := rfl
@[simp] theorem MachineState.setST_mem (m : MachineState) (b : Byte) : (m.setST b).mem = m.mem := rfl
@[simp] theorem MachineState.setST_fb (m : MachineState) (b : Byte) : (m.setST b).fb = m.fb := rfl
@[simp] theorem MachineState.setST_drawFlag (m : MachineState) (b : Byte) : (m.setST b).drawFlag = m.drawFlag := rfl
@[simp] theorem MachineState.setST_DT (m : MachineState) (b : Byte) : (m.setST b).DT = m.DT := rfl
@[simp] theorem MachineState.setST_ST (m : MachineState) (b : Byte) : (m.setST b).ST = b := rfl
@[simp] theorem MachineState.setST_DC (m : MachineState) (b : Byte) : (m.setST b).DC = m.DC := rfl
@[simp] theorem MachineState.setST_keys (m : MachineState) (b : Byte) : (m.setST b).keys = m.keys := rfl
@[simp] theorem MachineState.setST_waitReg (m : MachineState) (b : Byte) : (m.setST b).waitReg = m.waitReg := rfl
@[simp] theorem MachineState.setST_readV (m : MachineState) (b : Byte) (j : Reg) : (m.setST b).readV j = m.readV j := rfl
@[simp] theorem MachineState.setST_keyHeld (m : MachineState) (b : Byte) (j : Reg) : (m.setST b).keyHeld j = m.keyHeld j := rfl

/-! ### setDC -/

@[simp] theorem MachineState.setDC_V (m : MachineState) (b : Byte) : (m.setDC b).V = m.V := rfl
@[simp] theorem MachineState.setDC_I (m : MachineState) (b : Byte) : (m.setDC b).I = m.I := rfl
@[simp] theorem MachineState.setDC_pc (m : MachineState) (b : Byte) : (m.setDC b).pc = m.pc := rfl
@[simp] theorem MachineState.setDC_SP (m : MachineState) (b : Byte) : (m.setDC b).SP = m.SP := rfl
@[simp] theorem MachineState.setDC_stack (m : MachineState) (b : Byte) : (m.setDC b).stack = m.stack := rfl
@[simp] theorem MachineState.setDC_mem (m : MachineState) (b : Byte) : (m.setDC b).mem = m.mem := rfl
@[simp] theorem MachineState.setDC_fb (m : MachineState) (b : Byte) : (m.setDC b).fb = m.fb := rfl
@[simp] theorem MachineState.setDC_drawFlag (m : MachineState) (b : Byte) : (m.setDC b).drawFlag = m.drawFlag := rfl
@[simp] theorem MachineState.setDC_DT (m : MachineState) (b : Byte) : (m.setDC b).DT = m.DT := rfl
@[simp] theorem MachineState.setDC_ST (m : MachineState) (b : Byte) : (m.setDC b).ST = m.ST := rfl
@[simp] theorem MachineState.setDC_DC (m : MachineState) (b : Byte) : (m.setDC b).DC = b := rfl
@[simp] theorem MachineState.setDC_keys (m : MachineState) (b : Byte) : (m.setDC b).keys = m.keys := rfl
@[simp] theorem MachineState.setDC_waitReg (m : MachineState) (b : Byte) : (m.setDC b).waitReg = m.waitReg := rfl
@[simp] theorem MachineState.setDC_readV (m : MachineState) (b : Byte) (j : Reg) : (m.setDC b).readV j = m.readV j := rfl
@[simp] theorem MachineState.setDC_keyHeld (m : MachineState) (b : Byte) (j : Reg) : (m.setDC b).keyHeld j = m.keyHeld j := rfl

/-! ### setKey -/

@[simp] theorem MachineState.setKey_V (m : MachineState) (k : Reg) (b : Bool) : (m.setKey k b).V = m.V := rfl
@[simp] theorem MachineState.setKey_I (m : MachineState) (k : Reg) (b : Bool) : (m.setKey k b).I = m.I := rfl
@[simp] theorem MachineState.setKey_pc (m : MachineState) (k : Reg) (b : Bool) : (m.setKey k b).pc = m.pc := rfl
@[simp] theorem MachineState.setKey_SP (m : MachineState) (k : Reg) (b : Bool) : (m.setKey k b).SP = m.SP := rfl
@[simp] theorem MachineState.setKey_stack (m : MachineState) (k : Reg) (b : Bool) : (m.setKey k b).stack = m.stack := rfl
@[simp] theorem MachineState.setKey_mem (m : MachineState) (k : Reg) (b : Bool) : (m.setKey k b).mem = m.mem := rfl
@[simp] theorem MachineState.setKey_fb (m : MachineState) (k : Reg) (b : Bool) : (m.setKey k b).fb = m.fb := rfl
@[simp] theorem MachineState.setKey_drawFlag (m : MachineState) (k : Reg) (b : Bool) : (m.setKey k b).drawFlag = m.drawFlag := rfl
@[simp] theorem MachineState.setKey_DT (m : MachineState) (k : Reg) (b : Bool) : (m.setKey k b).DT = m.DT := rfl
@[simp] theorem MachineState.setKey_ST (m : MachineState) (k : Reg) (b : Bool) : (m.setKey k b).ST = m.ST := rfl
@[simp] theorem MachineState.setKey_DC (m : MachineState) (k : Reg) (b : Bool) : (m.setKey k b).DC = m.DC := rfl
@[simp] theorem MachineState.setKey_keys (m : MachineState) (k : Reg) (b : Bool) : (m.setKey k b).keys = m.keys.set k.val b k.isLt := rfl
@[simp] theorem MachineState.setKey_waitReg (m : MachineState) (k : Reg) (b : Bool) : (m.setKey k b).waitReg = m.waitReg := rfl
@[simp] theorem MachineState.setKey_readV (m : MachineState) (k : Reg) (b : Bool) (j : Reg) : (m.setKey k b).readV j = m.readV j := rfl

/-! ### zeroKeys -/

@[simp] theorem MachineState.zeroKeys_V (m : MachineState) : (m.zeroKeys).V = m.V := rfl
@[simp] theorem MachineState.zeroKeys_I (m : MachineState) : (m.zeroKeys).I = m.I := rfl
@[simp] theorem MachineState.zeroKeys_pc (m : MachineState) : (m.zeroKeys).pc = m.pc := rfl
@[simp] theorem MachineState.zeroKeys_SP (m : MachineState) : (m.zeroKeys).SP = m.SP := rfl
@[simp] theorem MachineState.zeroKeys_stack (m : MachineState) : (m.zeroKeys).stack = m.stack := rfl
@[simp] theorem MachineState.zeroKeys_mem (m : MachineState) : (m.zeroKeys).mem = m.mem := rfl
@[simp] theorem MachineState.zeroKeys_fb (m : MachineState) : (m.zeroKeys).fb = m.fb := rfl
@[simp] theorem MachineState.zeroKeys_drawFlag (m : MachineState) : (m.zeroKeys).drawFlag = m.drawFlag := rfl
@[simp] theorem MachineState.zeroKeys_DT (m : MachineState) : (m.zeroKeys).DT = m.DT := rfl
@[simp] theorem MachineState.zeroKeys_ST (m : MachineState) : (m.zeroKeys).ST = m.ST := rfl
@[simp] theorem MachineState.zeroKeys_DC (m : MachineState) : (m.zeroKeys).DC = m.DC := rfl
@[simp] theorem MachineState.zeroKeys_keys (m : MachineState) : (m.zeroKeys).keys = Vector.replicate 16 false := rfl
@[simp] theorem MachineState.zeroKeys_waitReg (m : MachineState) : (m.zeroKeys).waitReg = m.waitReg := rfl
@[simp] theorem MachineState.zeroKeys_readV (m : MachineState) (j : Reg) : (m.zeroKeys).readV j = m.readV j := rfl

/-! ### setWait -/

@[simp] theorem MachineState.setWait_V (m : MachineState) (w : Option Reg) : (m.setWait w).V = m.V := rfl
@[simp] theorem MachineState.setWait_I (m : MachineState) (w : Option Reg) : (m.setWait w).I = m.I := rfl
@[simp] theorem MachineState.setWait_pc (m : MachineState) (w : Option Reg) : (m.setWait w).pc = m.pc := rfl
@[simp] theorem MachineState.setWait_SP (m : MachineState) (w : Option Reg) : (m.setWait w).SP = m.SP := rfl
@[simp] theorem MachineState.setWait_stack (m : MachineState) (w : Option Reg) : (m.setWait w).stack = m.stack := rfl
@[simp] theorem MachineState.setWait_mem (m : MachineState) (w : Option Reg) : (m.setWait w).mem = m.mem := rfl
@[simp] theorem MachineState.setWait_fb (m : MachineState) (w : Option Reg) : (m.setWait w).fb = m.fb := rfl
@[simp] theorem MachineState.setWait_drawFlag (m : MachineState) (w : Option Reg) : (m.setWait w).drawFlag = m.drawFlag := rfl
@[simp] theorem MachineState.setWait_DT (m : MachineState) (w : Option Reg) : (m.setWait w).DT = m.DT := rfl
@[simp] theorem MachineState.setWait_ST (m : MachineState) (w : Option Reg) : (m.setWait w).ST = m.ST := rfl
@[simp] theorem MachineState.setWait_DC (m : MachineState) (w : Option Reg) : (m.setWait w).DC = m.DC := rfl
@[simp] theorem MachineState.setWait_keys (m : MachineState) (w : Option Reg) : (m.setWait w).keys = m.keys := rfl
@[simp] theorem MachineState.setWait_waitReg (m : MachineState) (w : Option Reg) : (m.setWait w).waitReg = w := rfl
@[simp] theorem MachineState.setWait_readV (m : MachineState) (w : Option Reg) (j : Reg) : (m.setWait w).readV j = m.readV j := rfl
@[simp] theorem MachineState.setWait_keyHeld (m : MachineState) (w : Option Reg) (j : Reg) : (m.setWait w).keyHeld j = m.keyHeld j := rfl

/-! ### Registers and keys after a write -/

@[simp] theorem MachineState.writeV_readV (m : MachineState) (r : Reg) (b : Byte) (j : Reg) :
    (m.writeV r b).readV j = if j = r then b else m.readV j := by
  simp only [MachineState.readV, MachineState.writeV_V, Vector.getElem_set, Fin.val_inj, eq_comm (a := r)]

@[simp] theorem MachineState.setV_readV (m : MachineState) (V : Vector Byte 16) (j : Reg) :
    (m.setV V).readV j = V[j.val] := rfl

@[simp] theorem MachineState.setKey_keyHeld (m : MachineState) (k : Reg) (b : Bool) (j : Reg) :
    (m.setKey k b).keyHeld j = if j = k then b else m.keyHeld j := by
  simp only [MachineState.keyHeld, MachineState.setKey_keys, Vector.getElem_set, Fin.val_inj, eq_comm (a := k)]

@[simp] theorem MachineState.zeroKeys_keyHeld (m : MachineState) (j : Reg) : m.zeroKeys.keyHeld j = false := by
  simp [MachineState.keyHeld]

/-! ### Updates of the engine -/

@[simp] theorem State.answer_S (s : State) (r : Response) : (s.answer r).S = s.S := rfl
@[simp] theorem State.answer_history (s : State) (r : Response) : (s.answer r).history = s.history := rfl
@[simp] theorem State.answer_fault (s : State) (r : Response) : (s.answer r).fault = s.fault := rfl
@[simp] theorem State.answer_inbox (s : State) (r : Response) : (s.answer r).inbox = s.inbox := rfl
@[simp] theorem State.answer_response (s : State) (r : Response) : (s.answer r).response = some r := rfl
@[simp] theorem State.answer_draws (s : State) (r : Response) : (s.answer r).draws = s.draws := rfl

@[simp] theorem State.takeFault_S (s : State) (f : Fault) : (s.takeFault f).S = s.S := rfl
@[simp] theorem State.takeFault_history (s : State) (f : Fault) : (s.takeFault f).history = s.history := rfl
@[simp] theorem State.takeFault_fault (s : State) (f : Fault) : (s.takeFault f).fault = some f := rfl
@[simp] theorem State.takeFault_inbox (s : State) (f : Fault) : (s.takeFault f).inbox = s.inbox := rfl
@[simp] theorem State.takeFault_response (s : State) (f : Fault) : (s.takeFault f).response = some (.fault f) := rfl
@[simp] theorem State.takeFault_draws (s : State) (f : Fault) : (s.takeFault f).draws = s.draws := rfl

@[simp] theorem State.archive_S (s : State) (m : MachineState) : (s.archive m).S = s.S := rfl
@[simp] theorem State.archive_history (s : State) (m : MachineState) : (s.archive m).history = record s.history m := rfl
@[simp] theorem State.archive_fault (s : State) (m : MachineState) : (s.archive m).fault = s.fault := rfl
@[simp] theorem State.archive_inbox (s : State) (m : MachineState) : (s.archive m).inbox = s.inbox := rfl
@[simp] theorem State.archive_response (s : State) (m : MachineState) : (s.archive m).response = s.response := rfl
@[simp] theorem State.archive_draws (s : State) (m : MachineState) : (s.archive m).draws = s.draws := rfl

@[simp] theorem State.modifyS_S (s : State) (f : MachineState → MachineState) : (s.modifyS f).S = f s.S := rfl
@[simp] theorem State.modifyS_history (s : State) (f : MachineState → MachineState) : (s.modifyS f).history = s.history := rfl
@[simp] theorem State.modifyS_fault (s : State) (f : MachineState → MachineState) : (s.modifyS f).fault = s.fault := rfl
@[simp] theorem State.modifyS_inbox (s : State) (f : MachineState → MachineState) : (s.modifyS f).inbox = s.inbox := rfl
@[simp] theorem State.modifyS_response (s : State) (f : MachineState → MachineState) : (s.modifyS f).response = some .ok := rfl
@[simp] theorem State.modifyS_draws (s : State) (f : MachineState → MachineState) : (s.modifyS f).draws = s.draws := rfl

@[simp] theorem State.resetEngine_S (s : State) : s.resetEngine.S = MachineState.reset := rfl
@[simp] theorem State.resetEngine_history (s : State) : s.resetEngine.history = [] := rfl
@[simp] theorem State.resetEngine_fault (s : State) : s.resetEngine.fault = none := rfl
@[simp] theorem State.resetEngine_inbox (s : State) : s.resetEngine.inbox = s.inbox := rfl
@[simp] theorem State.resetEngine_response (s : State) : s.resetEngine.response = some .ok := rfl
@[simp] theorem State.resetEngine_draws (s : State) : s.resetEngine.draws = s.draws := rfl

end Sys2Proof.Machine
end

