-- ==== Sys2Proof/Laws/Ops.lean ====
section
/-!
SUPPORT. One lemma for each shared operation, saying everything it can do; proofs cite these and unfold nothing. The stack, the key
operand, register blocks, the write-back of a flag, pixels and sprites, and the ways an instruction ends.
-/

namespace Sys2Proof.Machine

/-! ## How an instruction ends -/

theorem State.install_eq (s : State) (m : MachineState) : s.install m = .next { s with S := m } := rfl

theorem State.finishV_eq (s : State) (x : Reg) (b : Byte) :
    s.finishV x b = .next { s with S := (s.S.writeV x b).advance } := rfl

theorem State.finishAlu_eq (s : State) (x : Reg) (o : AluOut) :
    s.finishAlu x o = .next { s with S := (writeback s.S x o).advance } := rfl

/-- Everything a store at I can do (rules R63, R146). -/
theorem State.storeAtI_cases (s : State) (bs : List Byte) :
    ((bs = [] ∨ s.S.dataAddr + bs.length ≤ 0x1000) ∧
      s.storeAtI bs = .next { s with S := (s.S.setMem (Memory.writeBytes s.S.mem s.S.dataAddr bs)).advance }) ∨
    (bs ≠ [] ∧ 0x1000 < s.S.dataAddr + bs.length ∧
      s.storeAtI bs = .fault (.boundsError .mem (BitVec.ofNat 16 (lowestInvalid s.S.dataAddr)))) := by
  unfold State.storeAtI
  obtain ⟨h, e⟩ | ⟨h, h', e⟩ := memWrite_cases s.S.mem s.S.dataAddr bs
  · exact .inl ⟨h, by rw [e]; rfl⟩
  · exact .inr ⟨h, h', by rw [e]⟩

/-! ## The stack -/

/-- Everything pushing can do (rule R102). -/
theorem MachineState.push_cases (m : MachineState) (a : Word) :
    (∃ h : m.SP.toNat < 16,
      m.push a = .ok { m with stack := m.stack.set m.SP.toNat a h, SP := m.SP + 1 }) ∨
    (16 ≤ m.SP.toNat ∧ m.push a = .error (.boundsError .stack (zext8 m.SP))) := by
  unfold MachineState.push
  split
  · exact .inl ⟨‹_›, rfl⟩
  · exact .inr ⟨by omega, rfl⟩

/-- Everything popping can do (rule R103, log 11). -/
theorem MachineState.pop_cases (m : MachineState) :
    (∃ k : Fin 16, m.SP.toNat = k.val + 1 ∧ m.pop = .ok ({ m with SP := m.SP - 1 }, m.stack[k.val])) ∨
    ((m.SP.toNat = 0 ∨ 16 < m.SP.toNat) ∧ m.pop = .error (.boundsError .stack (zext8 m.SP))) := by
  unfold MachineState.pop
  split
  · rename_i h
    exact .inl ⟨⟨m.SP.toNat - 1, by omega⟩, by simp; omega, rfl⟩
  · exact .inr ⟨by omega, rfl⟩

/-! ## Operands -/

/-- Everything a key operand can be (rules R115, R116). -/
theorem keyOperand_cases (b : Byte) :
    (∃ k : Reg, b.toNat = k.val ∧ keyOperand b = .ok k) ∨
    (15 < b.toNat ∧ keyOperand b = .error (.boundsError .key (zext8 b))) := by
  unfold keyOperand
  split
  · exact .inl ⟨⟨b.toNat, ‹_›⟩, rfl, rfl⟩
  · exact .inr ⟨by omega, rfl⟩

@[simp] theorem MachineState.regBlock_length (m : MachineState) (x : Reg) : (m.regBlock x).length = x.val + 1 := by
  simp only [MachineState.regBlock, List.length_take, Vector.length_toList]
  omega

theorem MachineState.regBlock_getD (m : MachineState) (x j : Reg) (h : j ≤ x) :
    (m.regBlock x).getD j.val 0 = m.readV j := by
  have hj : j.val < x.val + 1 := Nat.lt_succ_of_le h
  rw [List.getD_eq_getElem _ _ (by simpa using hj)]
  simp [MachineState.regBlock, MachineState.readV]

/-- A register after a block of bytes is written from index `i` on (rule R145). -/
theorem writeRegsFrom_getElem (bs : List Byte) (V : Vector Byte 16) (i j : Nat) (hj : j < 16) :
    (writeRegsFrom V i bs)[j] = if i ≤ j ∧ j < i + bs.length then bs.getD (j - i) 0 else V[j] := by
  induction bs generalizing V i with
  | nil => simp [writeRegsFrom]
  | cons b bs ih =>
    rw [writeRegsFrom, ih, Vector.getElem_setIfInBounds]
    by_cases h : i = j
    · subst h; simp
    · by_cases h' : i + 1 ≤ j ∧ j < i + 1 + bs.length
      · rw [if_pos h', if_pos (by simp; omega), show j - i = (j - (i + 1)) + 1 by omega]
        simp
      · rw [if_neg h', if_neg h, if_neg (by simp; omega)]

theorem MachineState.setRegBlock_readV (m : MachineState) (bs : List Byte) (j : Reg) :
    (m.setRegBlock bs).readV j = if j.val < bs.length then bs.getD j.val 0 else m.readV j := by
  rw [MachineState.setRegBlock, MachineState.setV_readV, writeRegsFrom_getElem]
  simp [MachineState.readV]

/-- A block write touches the register file alone. -/
theorem MachineState.setRegBlock_eq_setV (m : MachineState) (bs : List Byte) : ∃ V, m.setRegBlock bs = m.setV V :=
  ⟨_, rfl⟩

/-! ## Flags -/

/-- A write-back touches the register file alone (rule R131). -/
theorem writeback_eq_setV (m : MachineState) (x : Reg) (o : AluOut) : ∃ V, writeback m x o = m.setV V := ⟨_, rfl⟩

/-- The registers after a write-back (rule R131). -/
theorem writeback_readV (m : MachineState) (x : Reg) (o : AluOut) (j : Reg) :
    (writeback m x o).readV j =
      if j = 15 then
        if x = 15 then
          match Config.vfDestPolicy with
          | .flagWins => flagByte o.flag
          | .resultWins => o.result
        else flagByte o.flag
      else if j = x then o.result
      else m.readV j := by
  have e15 : (15 = j.val) ↔ j = 15 := by rw [Fin.ext_iff]; exact eq_comm
  have ex : (x.val = j.val) ↔ j = x := by rw [Fin.ext_iff]; exact eq_comm
  rw [writeback, MachineState.setV_readV]
  by_cases hx : x = 15
  · rw [if_pos hx, if_pos hx]
    subst hx
    unfold writebackWith
    cases Config.vfDestPolicy
    · simp only [Vector.getElem_set, e15, ex, MachineState.readV]
    · simp only [Vector.getElem_set, e15, ex, MachineState.readV]
      split <;> rfl
  · rw [if_neg hx, if_neg hx, writebackWith, Vector.getElem_set, Vector.getElem_set]
    simp only [e15, ex, MachineState.readV]

/-! ## Pixels -/

/-- A pixel after one is written. -/
theorem FrameBuffer.get_put (f : FrameBuffer) (r : Fin 32) (c : Fin 64) (b : Bool) (r' : Fin 32) (c' : Fin 64) :
    FrameBuffer.get (FrameBuffer.put f r c b) r' c' = if (r', c') = (r, c) then b else FrameBuffer.get f r' c' := by
  simp only [FrameBuffer.get, FrameBuffer.put, Vector.getElem_set, Prod.mk.injEq, Fin.ext_iff,
    eq_comm (a := r'.val), eq_comm (a := c'.val)]
  by_cases hr : r.val = r'.val
  · by_cases hc : c.val = c'.val <;> simp [hr, hc]
  · simp [hr]

@[simp] theorem FrameBuffer.get_clear (r : Fin 32) (c : Fin 64) : FrameBuffer.get FrameBuffer.clear r c = false := by
  simp [FrameBuffer.get, FrameBuffer.clear]

/-- Pixels plotted one after another. -/
def plotAll (ps : List (Fin 32 × Fin 64)) (p : FrameBuffer × Bool) : FrameBuffer × Bool :=
  ps.foldl (fun q x => plot q x.1 x.2) p

/-- Distinct pixels plotted: each is inverted, and the flag is raised when one of them was set; the order does not matter (rule
R153). -/
theorem plotAll_spec (ps : List (Fin 32 × Fin 64)) (hn : ps.Nodup) (p : FrameBuffer × Bool) :
    (∀ r c, FrameBuffer.get (plotAll ps p).1 r c = (FrameBuffer.get p.1 r c ^^ decide ((r, c) ∈ ps))) ∧
    ((plotAll ps p).2 = true ↔ p.2 = true ∨ ∃ x ∈ ps, FrameBuffer.get p.1 x.1 x.2 = true) := by
  induction ps generalizing p with
  | nil => simp [plotAll]
  | cons x ps ih =>
    obtain ⟨hx, hn⟩ := List.nodup_cons.1 hn
    obtain ⟨h1, h2⟩ := ih hn (plot p x.1 x.2)
    have e : plotAll (x :: ps) p = plotAll ps (plot p x.1 x.2) := rfl
    refine ⟨fun r c => ?_, ?_⟩
    · rw [e, h1]
      simp only [plot, FrameBuffer.get_put]
      by_cases h : (r, c) = x
      · subst h; simp [hx]
      · simp [h]
    · rw [e, h2]
      simp only [plot, FrameBuffer.get_put, Bool.or_eq_true, List.mem_cons, exists_eq_or_imp]
      constructor
      · rintro ((h | h) | ⟨y, hy, h⟩)
        · exact .inl h
        · exact .inr (.inl h)
        · refine .inr (.inr ⟨y, hy, ?_⟩)
          rwa [if_neg (by rintro h'; rw [Prod.mk.eta, Prod.mk.eta] at h'; subst h'; exact hx hy)] at h
      · rintro (h | h | ⟨y, hy, h⟩)
        · exact .inl (.inl h)
        · exact .inl (.inr h)
        · refine .inr ⟨y, hy, ?_⟩
          rwa [if_neg (by rintro h'; rw [Prod.mk.eta, Prod.mk.eta] at h'; subst h'; exact hx hy)]

/-- The pixels of one row byte's set bits, from left to right. -/
def rowPixels (b : Byte) (cx r : Nat) : List (Fin 32 × Fin 64) :=
  ([0, 1, 2, 3, 4, 5, 6, 7].filter (fun j => b.getLsbD (7 - j))).map (fun j => (Fin.ofNat 32 r, Fin.ofNat 64 (cx + j)))

/-- The pixels of a sprite's set bits. -/
def spritePixels : List Byte → Nat → Nat → List (Fin 32 × Fin 64)
  | [], _, _ => []
  | b :: bs, cx, r => rowPixels b cx r ++ spritePixels bs cx (r + 1)

theorem drawByte_eq (b : Byte) (cx r : Nat) (p : FrameBuffer × Bool) :
    drawByte b cx r p = plotAll (rowPixels b cx r) p := by
  unfold drawByte plotAll rowPixels
  rw [List.foldl_map, List.foldl_filter]
  rfl

/-- Drawing a sprite is plotting its pixels. -/
theorem drawRows_eq (bs : List Byte) (cx r : Nat) (p : FrameBuffer × Bool) :
    drawRows bs cx r p = plotAll (spritePixels bs cx r) p := by
  induction bs generalizing r p with
  | nil => rfl
  | cons b bs ih =>
    rw [drawRows, ih, drawByte_eq, spritePixels, plotAll, plotAll, plotAll, List.foldl_append]

theorem mem_rowPixels (b : Byte) (cx r : Nat) (x : Fin 32 × Fin 64) :
    x ∈ rowPixels b cx r ↔
      x.1.val = r % 32 ∧ ∃ j, j < 8 ∧ b.getLsbD (7 - j) = true ∧ x.2.val = (cx + j) % 64 := by
  obtain ⟨x1, x2⟩ := x
  have h8 (j : Nat) : j ∈ [0, 1, 2, 3, 4, 5, 6, 7] ↔ j < 8 := by simp; omega
  simp only [rowPixels, List.mem_map, List.mem_filter, h8, Prod.mk.injEq, Fin.ext_iff, Fin.val_ofNat]
  constructor
  · rintro ⟨j, ⟨hj, hb⟩, h1, h2⟩
    exact ⟨h1.symm, j, hj, hb, h2.symm⟩
  · rintro ⟨h1, j, hj, hb, h2⟩
    exact ⟨j, ⟨hj, hb⟩, h1.symm, h2.symm⟩

theorem mem_spritePixels (bs : List Byte) (cx r : Nat) (x : Fin 32 × Fin 64) :
    x ∈ spritePixels bs cx r ↔
      ∃ i, i < bs.length ∧ x.1.val = (r + i) % 32 ∧
        ∃ j, j < 8 ∧ (bs.getD i 0).getLsbD (7 - j) = true ∧ x.2.val = (cx + j) % 64 := by
  induction bs generalizing r with
  | nil => simp [spritePixels]
  | cons b bs ih =>
    rw [spritePixels, List.mem_append, mem_rowPixels, ih]
    constructor
    · rintro (⟨h1, h2⟩ | ⟨i, hi, h1, h2⟩)
      · exact ⟨0, by simp, by simpa using h1, by simpa using h2⟩
      · exact ⟨i + 1, by simpa using hi, by rw [h1]; congr 1; omega, by simpa using h2⟩
    · rintro ⟨i, hi, h1, h2⟩
      cases i with
      | zero => exact .inl ⟨by simpa using h1, by simpa using h2⟩
      | succ i => exact .inr ⟨i, by simpa using hi, by rw [h1]; congr 1; omega, by simpa using h2⟩

theorem nodup_rowPixels (b : Byte) (cx r : Nat) : (rowPixels b cx r).Nodup := by
  unfold rowPixels
  refine List.Nodup.map_on ?_ (List.Nodup.filter _ (by decide))
  intro i hi j hj h
  have h8 (j : Nat) : j ∈ [0, 1, 2, 3, 4, 5, 6, 7] ↔ j < 8 := by simp; omega
  simp only [List.mem_filter, h8] at hi hj
  simp only [Prod.mk.injEq, Fin.ext_iff, Fin.val_ofNat] at h
  omega

/-- A sprite of at most 32 rows visits no pixel twice (rule R153 a). -/
theorem nodup_spritePixels (bs : List Byte) (cx r : Nat) (h : bs.length ≤ 32) : (spritePixels bs cx r).Nodup := by
  induction bs generalizing r with
  | nil => simp [spritePixels]
  | cons b bs ih =>
    simp only [List.length_cons] at h
    refine List.Nodup.append (nodup_rowPixels b cx r) (ih (r + 1) (by omega)) ?_
    intro x hx hx'
    obtain ⟨h1, -⟩ := (mem_rowPixels _ _ _ _).1 hx
    obtain ⟨i, hi, h2, -⟩ := (mem_spritePixels _ _ _ _).1 hx'
    omega

/-! ## The driver -/

/-- Everything a fetch can answer (rules R64, R66). -/
theorem fetch_cases (m : MachineState) :
    (m.pc.toNat ≤ 0xFFE ∧
      fetch m = .ok (Memory.read m.mem m.pc.toNat ++ Memory.read m.mem (m.pc.toNat + 1))) ∨
    (0xFFE < m.pc.toNat ∧
      fetch m = .error (.boundsError .mem (BitVec.ofNat 16 (lowestInvalid m.pc.toNat)))) := by
  unfold fetch
  obtain ⟨h, e⟩ | ⟨h, h', e⟩ := memRead_cases m.mem m.pc.toNat 2
  · exact .inl ⟨by omega, by rw [e]; rfl⟩
  · exact .inr ⟨by omega, by rw [e]⟩

/-- Everything the driver can make of an instruction that leaves a next state (rules R171, R173). -/
theorem State.conclude_next (s t : State) (o : Result) (h : s.conclude o = .next t) :
    (∃ u, o = .next u ∧ t = (u.archive s.S).answer .ok) ∨ (∃ f, o = .fault f ∧ t = s.takeFault f) := by
  cases o with
  | next u => cases h; exact .inl ⟨u, rfl, rfl⟩
  | fault f => cases h; exact .inr ⟨f, rfl, rfl⟩
  | refused r => cases h

/-- Everything rewind of an unfaulted engine can do (rules R193, R194). -/
theorem State.rewind_cases (s : State) :
    (s.history = [] ∧ s.rewind = s.answer .ok) ∨
    (∃ h m, s.history = h ++ [m] ∧ s.rewind = State.answer { s with S := m, history := h } .ok) := by
  rcases List.eq_nil_or_concat s.history with e | ⟨h, m, e⟩
  · exact .inl ⟨e, by simp [State.rewind, e]⟩
  · exact .inr ⟨h, m, by simpa using e, by simp [State.rewind, e]⟩

/-- Everything advance_cpu can do (rules R171 to R173, R184). -/
theorem State.advanceCpu_cases (s : State) :
    (s.fault ≠ none ∧ s.advanceCpu = .next (s.answer .refused)) ∨
    (s.fault = none ∧ s.S.waitReg ≠ none ∧ s.advanceCpu = .next ((s.archive s.S).answer .ok)) ∨
    (s.fault = none ∧ s.S.waitReg = none ∧ ∃ f, fetchDecode s.S = .error f ∧ s.advanceCpu = .next (s.takeFault f)) ∨
    (s.fault = none ∧ s.S.waitReg = none ∧ ∃ i, fetchDecode s.S = .ok i ∧ s.advanceCpu = s.conclude (exec i s)) := by
  unfold State.advanceCpu
  cases hf : s.fault with
  | some f => simp
  | none =>
    cases hw : s.S.waitReg with
    | some r => simp
    | none => cases hd : fetchDecode s.S <;> simp

/-- Everything fetch and decode can answer (rule R206). -/
theorem fetchDecode_cases (m : MachineState) :
    (0xFFE < m.pc.toNat ∧
      fetchDecode m = .error (.boundsError .mem (BitVec.ofNat 16 (lowestInvalid m.pc.toNat)))) ∨
    (m.pc.toNat ≤ 0xFFE ∧
      let op := Memory.read m.mem m.pc.toNat ++ Memory.read m.mem (m.pc.toNat + 1)
      (∃ e, decode op = .error e ∧ fetchDecode m = .error (.decodeError op m.pc)) ∨
      (∃ i, decode op = .ok i ∧ fetchDecode m = .ok i)) := by
  unfold fetchDecode
  obtain ⟨h, e⟩ | ⟨h, e⟩ := fetch_cases m
  · right
    refine ⟨h, ?_⟩
    rw [e]
    cases hd : decode (Memory.read m.mem m.pc.toNat ++ Memory.read m.mem (m.pc.toNat + 1)) with
    | error e => exact .inl ⟨e, hd, by simp [hd]⟩
    | ok i => exact .inr ⟨i, hd, by simp [hd]⟩
  · left
    exact ⟨h, by rw [e]⟩

/-- Everything serving the inbox can do (rule R170, log 1). -/
theorem State.serve_cases (s : State) :
    (s.inbox = [] ∧ s.serve = .next s) ∨
    (∃ c cs, s.inbox = c :: cs ∧ s.serve = State.perform { s with inbox := cs } c) := by
  unfold State.serve
  cases h : s.inbox with
  | nil => exact .inl ⟨rfl, rfl⟩
  | cons c cs => exact .inr ⟨c, cs, rfl, rfl⟩

end Sys2Proof.Machine
end

