-- ==== Sys2Proof/Laws/PerInstr.lean ====
section
/-!
SUPPORT. Per instruction: its word, for every operand, selects its own row of the opcode table (rule R84 of
spec/30_encoding.md), and that row is one of the 34.
-/

namespace Sys2Proof.Laws.TableRow

/-- The word of `i` selects the row of `i`, a row of the table (rule R84). -/
def Statement (i : Instr) : Prop := i.row.selects (encode i) = true ∧ i.row ∈ opcodeTable

theorem and_ones (k : BitVec 4) : k &&& 0xF#4 = k := BitVec.and_allOnes

theorem and_zeros {w : Nat} (k : BitVec w) : k &&& 0#w = 0#w := BitVec.and_zero

/-- Format NNN under the mask F000. -/
theorem mask_nnn (key : BitVec 4) (nnn : Addr) : encNnn key nnn &&& 0xF000 = key ++ 0#12 := by
  show (key ++ nnn) &&& (0xF#4 ++ 0#12) = (_ : Word)
  rw [BitVec.and_append, and_ones, and_zeros]

/-- Format XKK under the mask F000. -/
theorem mask_xkk (key : BitVec 4) (x : Reg) (kk : Byte) : encXkk key x kk &&& 0xF000 = key ++ 0#4 ++ 0#8 := by
  show (key ++ regBits x ++ kk) &&& (0xF#4 ++ 0#4 ++ 0#8) = (_ : Word)
  rw [BitVec.and_append, BitVec.and_append, and_ones, and_zeros, and_zeros]

/-- Format XFN under the mask F0FF. -/
theorem mask_xfn (key : BitVec 4) (x : Reg) (kk : Byte) : encXkk key x kk &&& 0xF0FF = key ++ 0#4 ++ kk := by
  show (key ++ regBits x ++ kk) &&& (0xF#4 ++ 0#4 ++ 0xFF#8) = (_ : Word)
  rw [BitVec.and_append, BitVec.and_append, and_ones, and_zeros, show kk &&& 0xFF#8 = kk from BitVec.and_allOnes]

/-- Format XYN under the mask F00F. -/
theorem mask_xyn (key : BitVec 4) (x y : Reg) (n : BitVec 4) :
    encXyn key x y n &&& 0xF00F = key ++ 0#4 ++ 0#4 ++ n := by
  show (key ++ regBits x ++ regBits y ++ n) &&& (0xF#4 ++ 0#4 ++ 0#4 ++ 0xF#4) = (_ : Word)
  rw [BitVec.and_append, BitVec.and_append, BitVec.and_append, and_ones, and_ones, and_zeros, and_zeros]

/-- Format XYN under the mask F000. -/
theorem mask_xyn_key (key : BitVec 4) (x y : Reg) (n : BitVec 4) :
    encXyn key x y n &&& 0xF000 = key ++ 0#4 ++ 0#4 ++ 0#4 := by
  show (key ++ regBits x ++ regBits y ++ n) &&& (0xF#4 ++ 0#4 ++ 0#4 ++ 0#4) = (_ : Word)
  rw [BitVec.and_append, BitVec.and_append, BitVec.and_append, and_ones, and_zeros, and_zeros, and_zeros]

/-- From the masked word to the statement. -/
theorem of_mask (i : Instr) (h : encode i &&& i.row.mask = i.row.value) (hm : i.row ∈ opcodeTable) : Statement i :=
  ⟨by simp [OpcodeRow.selects, h], hm⟩

theorem cls : Statement .cls := of_mask _ rfl (by decide)
theorem ret : Statement .ret := of_mask _ rfl (by decide)
theorem jp (nnn : Addr) : Statement (.jp nnn) :=
  of_mask _ (mask_nnn _ nnn) (by decide : Instr.row (.jp 0) ∈ opcodeTable)
theorem call (nnn : Addr) : Statement (.call nnn) :=
  of_mask _ (mask_nnn _ nnn) (by decide : Instr.row (.call 0) ∈ opcodeTable)
theorem se (x : Reg) (kk : Byte) : Statement (.se x kk) :=
  of_mask _ (mask_xkk _ x kk) (by decide : Instr.row (.se 0 0) ∈ opcodeTable)
theorem sne (x : Reg) (kk : Byte) : Statement (.sne x kk) :=
  of_mask _ (mask_xkk _ x kk) (by decide : Instr.row (.sne 0 0) ∈ opcodeTable)
theorem seReg (x : Reg) (y : Reg) : Statement (.seReg x y) :=
  of_mask _ (mask_xyn _ x y _) (by decide : Instr.row (.seReg 0 0) ∈ opcodeTable)
theorem ldImm (x : Reg) (kk : Byte) : Statement (.ldImm x kk) :=
  of_mask _ (mask_xkk _ x kk) (by decide : Instr.row (.ldImm 0 0) ∈ opcodeTable)
theorem addImm (x : Reg) (kk : Byte) : Statement (.addImm x kk) :=
  of_mask _ (mask_xkk _ x kk) (by decide : Instr.row (.addImm 0 0) ∈ opcodeTable)
theorem ldReg (x : Reg) (y : Reg) : Statement (.ldReg x y) :=
  of_mask _ (mask_xyn _ x y _) (by decide : Instr.row (.ldReg 0 0) ∈ opcodeTable)
theorem or (x : Reg) (y : Reg) : Statement (.or x y) :=
  of_mask _ (mask_xyn _ x y _) (by decide : Instr.row (.or 0 0) ∈ opcodeTable)
theorem and (x : Reg) (y : Reg) : Statement (.and x y) :=
  of_mask _ (mask_xyn _ x y _) (by decide : Instr.row (.and 0 0) ∈ opcodeTable)
theorem xor (x : Reg) (y : Reg) : Statement (.xor x y) :=
  of_mask _ (mask_xyn _ x y _) (by decide : Instr.row (.xor 0 0) ∈ opcodeTable)
theorem addReg (x : Reg) (y : Reg) : Statement (.addReg x y) :=
  of_mask _ (mask_xyn _ x y _) (by decide : Instr.row (.addReg 0 0) ∈ opcodeTable)
theorem sub (x : Reg) (y : Reg) : Statement (.sub x y) :=
  of_mask _ (mask_xyn _ x y _) (by decide : Instr.row (.sub 0 0) ∈ opcodeTable)
theorem shr (x : Reg) (y : Reg) : Statement (.shr x y) :=
  of_mask _ (mask_xyn _ x y _) (by decide : Instr.row (.shr 0 0) ∈ opcodeTable)
theorem subn (x : Reg) (y : Reg) : Statement (.subn x y) :=
  of_mask _ (mask_xyn _ x y _) (by decide : Instr.row (.subn 0 0) ∈ opcodeTable)
theorem shl (x : Reg) (y : Reg) : Statement (.shl x y) :=
  of_mask _ (mask_xyn _ x y _) (by decide : Instr.row (.shl 0 0) ∈ opcodeTable)
theorem sneReg (x : Reg) (y : Reg) : Statement (.sneReg x y) :=
  of_mask _ (mask_xyn _ x y _) (by decide : Instr.row (.sneReg 0 0) ∈ opcodeTable)
theorem ldAddr (nnn : Addr) : Statement (.ldAddr nnn) :=
  of_mask _ (mask_nnn _ nnn) (by decide : Instr.row (.ldAddr 0) ∈ opcodeTable)
theorem jpOffset (nnn : Addr) : Statement (.jpOffset nnn) :=
  of_mask _ (mask_nnn _ nnn) (by decide : Instr.row (.jpOffset 0) ∈ opcodeTable)
theorem rnd (x : Reg) (kk : Byte) : Statement (.rnd x kk) :=
  of_mask _ (mask_xkk _ x kk) (by decide : Instr.row (.rnd 0 0) ∈ opcodeTable)
theorem drw (x : Reg) (y : Reg) (n : Nat) : Statement (.drw x y n) :=
  of_mask _ (mask_xyn_key _ x y _) (by decide : Instr.row (.drw 0 0 0) ∈ opcodeTable)
theorem skp (x : Reg) : Statement (.skp x) :=
  of_mask _ (mask_xfn _ x _) (by decide : Instr.row (.skp 0) ∈ opcodeTable)
theorem sknp (x : Reg) : Statement (.sknp x) :=
  of_mask _ (mask_xfn _ x _) (by decide : Instr.row (.sknp 0) ∈ opcodeTable)
theorem ldVxDt (x : Reg) : Statement (.ldVxDt x) :=
  of_mask _ (mask_xfn _ x _) (by decide : Instr.row (.ldVxDt 0) ∈ opcodeTable)
theorem waitKey (x : Reg) : Statement (.waitKey x) :=
  of_mask _ (mask_xfn _ x _) (by decide : Instr.row (.waitKey 0) ∈ opcodeTable)
theorem ldDtVx (x : Reg) : Statement (.ldDtVx x) :=
  of_mask _ (mask_xfn _ x _) (by decide : Instr.row (.ldDtVx 0) ∈ opcodeTable)
theorem ldStVx (x : Reg) : Statement (.ldStVx x) :=
  of_mask _ (mask_xfn _ x _) (by decide : Instr.row (.ldStVx 0) ∈ opcodeTable)
theorem addIVx (x : Reg) : Statement (.addIVx x) :=
  of_mask _ (mask_xfn _ x _) (by decide : Instr.row (.addIVx 0) ∈ opcodeTable)
theorem ldFont (x : Reg) : Statement (.ldFont x) :=
  of_mask _ (mask_xfn _ x _) (by decide : Instr.row (.ldFont 0) ∈ opcodeTable)
theorem bcd (x : Reg) : Statement (.bcd x) :=
  of_mask _ (mask_xfn _ x _) (by decide : Instr.row (.bcd 0) ∈ opcodeTable)
theorem storeRegs (x : Reg) : Statement (.storeRegs x) :=
  of_mask _ (mask_xfn _ x _) (by decide : Instr.row (.storeRegs 0) ∈ opcodeTable)
theorem loadRegs (x : Reg) : Statement (.loadRegs x) :=
  of_mask _ (mask_xfn _ x _) (by decide : Instr.row (.loadRegs 0) ∈ opcodeTable)

end Sys2Proof.Laws.TableRow
end

