-- ==== Sys2Proof/Tests/Slice0.lean ====
section
/-!
SUPPORT. Small tests, their expected results taken from spec/30_encoding.md and spec/95_test_vectors.md (the vector's id is named in
each), and for each statement of Certificates/Slice0 with hypotheses a state and operands that meet them, clause by clause.
-/

namespace Sys2Proof.Tests

open Sys2Proof Sys2Proof.Machine

/-! ## Helpers -/

/-- The engine as after reset, with this Machine State. -/
def eng (m : MachineState) : State := { State.reset with S := m }

/-- The reset Machine State with registers set, in the order given. -/
def regs (rs : List (Reg × Byte)) : MachineState := rs.foldl (fun m r => m.writeV r.1 r.2) MachineState.reset

/-- Bytes put in memory. -/
def withBytes (m : MachineState) (a : Nat) (bs : List Byte) : MachineState := m.setMem (Memory.writeBytes m.mem a bs)

/-- The word decoded and executed, without fetch. -/
def run (op : Word) (s : State) : Result :=
  match decode op with
  | .ok i => exec i s
  | .error _ => .fault (.decodeError op s.S.pc)

/-- The outcome is a next state that passes the check. -/
def nx (o : Result) (p : State → Bool) : Bool :=
  match o with
  | .next t => p t
  | _ => false

/-- The fault of an outcome. -/
def faultOf : Result → Option Fault
  | .fault f => some f
  | _ => none

/-- A word run on a Machine State passes the check. -/
def ends (op : Word) (m : MachineState) (p : MachineState → Bool) : Bool := nx (run op (eng m)) (fun t => p t.S)

/-- `n` stack slots occupied. -/
def depth (n : Byte) (m : MachineState) : MachineState := { m with SP := n }

/-- The pixels set in a picture, row by row, as (column, row). -/
def pixels (f : FrameBuffer) : List (Nat × Nat) :=
  (List.finRange 32).flatMap fun r =>
    ((List.finRange 64).filter fun c => FrameBuffer.get f r c).map fun c => (c.val, r.val)

/-! ## Well-formedness and decoding -/

theorem test_wellFormed_refuses_wide_drw : Instr.wellFormed (.drw 0 0 16) = false := by decide
theorem test_wellFormed_accepts_drw : Instr.wellFormed (.drw 0 0 15) = true := by decide

theorem test_decode_control :
    decode 0x00E0 = .ok .cls ∧ decode 0x00EE = .ok .ret ∧ decode 0x1ABC = .ok (.jp 0xABC) ∧
    decode 0x2DEF = .ok (.call 0xDEF) ∧ decode 0xB123 = .ok (.jpOffset 0x123) := by decide

theorem test_decode_skips :
    decode 0x3A5C = .ok (.se 0xA 0x5C) ∧ decode 0x4B6D = .ok (.sne 0xB 0x6D) ∧ decode 0x5120 = .ok (.seReg 1 2) ∧
    decode 0x9340 = .ok (.sneReg 3 4) ∧ decode 0xE59E = .ok (.skp 5) ∧ decode 0xE6A1 = .ok (.sknp 6) := by decide

theorem test_decode_loads :
    decode 0x67F1 = .ok (.ldImm 7 0xF1) ∧ decode 0x78E2 = .ok (.addImm 8 0xE2) ∧ decode 0x8120 = .ok (.ldReg 1 2) ∧
    decode 0xC9D3 = .ok (.rnd 9 0xD3) := by decide

theorem test_decode_alu :
    decode 0x8121 = .ok (.or 1 2) ∧ decode 0x8122 = .ok (.and 1 2) ∧ decode 0x8123 = .ok (.xor 1 2) ∧
    decode 0x8124 = .ok (.addReg 1 2) ∧ decode 0x8125 = .ok (.sub 1 2) ∧ decode 0x8126 = .ok (.shr 1 2) ∧
    decode 0x8127 = .ok (.subn 1 2) ∧ decode 0x812E = .ok (.shl 1 2) := by decide

theorem test_decode_index :
    decode 0xA456 = .ok (.ldAddr 0x456) ∧ decode 0xF31E = .ok (.addIVx 3) ∧ decode 0xF429 = .ok (.ldFont 4) ∧
    decode 0xF533 = .ok (.bcd 5) ∧ decode 0xF655 = .ok (.storeRegs 6) ∧ decode 0xF765 = .ok (.loadRegs 7) ∧
    decode 0xD12E = .ok (.drw 1 2 14) := by decide

theorem test_decode_timers :
    decode 0xF807 = .ok (.ldVxDt 8) ∧ decode 0xF90A = .ok (.waitKey 9) ∧ decode 0xFA15 = .ok (.ldDtVx 0xA) ∧
    decode 0xFB18 = .ok (.ldStVx 0xB) := by decide

/-- One illegal word or more of each group (rule R90; T19, T54, T99). -/
theorem test_decode_illegal :
    decode 0x0000 = .error .group0 ∧ decode 0x00E1 = .error .group0 ∧ decode 0x5121 = .error .group5 ∧
    decode 0x8008 = .error .group8 ∧ decode 0x800F = .error .group8 ∧ decode 0x9121 = .error .group9 ∧
    decode 0xE100 = .error .groupE ∧ decode 0xF100 = .error .groupF ∧ decode 0xF1FF = .error .groupF ∧
    decode 0xF175 = .error .groupF := by decide

theorem test_decode_bytes_high_first : decodeBytes [0x71, 0x22, 0x00] = .ok (.addImm 1 0x22, [0x00]) := by decide
theorem test_decode_bytes_truncated : decodeBytes [0x71] = .error .truncated := by decide
theorem test_decodeTableWord : decodeTableWord 16 0xF10A = some (.waitKey 1) ∧ decodeTableWord 16 0x5121 = none := by
  decide

/-! ## Control transfer -/

theorem test_jp : ends 0x1FFF (regs []) (fun m => m.pc == 0xFFF) = true := by decide  -- T3
theorem test_call :  -- T5
    ends 0x2ABC (depth 15 ((regs []).setPc 0xFFE)) (fun m => m.stack[15] == 0x1000 && m.SP == 16 && m.pc == 0xABC) = true := by
  decide
theorem test_call_full : faultOf (run 0x2ABC (eng (depth 16 (regs [])))) = some (.boundsError .stack 16) := by decide  -- T6
theorem test_ret :  -- T7
    ends 0x00EE (depth 1 { regs [] with stack := (regs []).stack.set 0 0x206 })
      (fun m => m.SP == 0 && m.pc == 0x206 && m.stack[0] == 0x206) = true := by decide
theorem test_ret_empty : faultOf (run 0x00EE (eng (regs []))) = some (.boundsError .stack 0) := by decide  -- T9
theorem test_jpOffset : ends 0xBFFF (regs [(0, 0xFF)]) (fun m => m.pc == 0x10FE) = true := by decide  -- T11
theorem test_jpOffset_v0 : ends 0xB300 (regs [(3, 0x77)]) (fun m => m.pc == 0x300) = true := by decide  -- T12

/-! ## Skips -/

theorem test_se :  -- T13, T14
    ends 0x3000 ((regs []).setPc 0x208) (fun m => m.pc == 0x20C) && ends 0x3000 ((regs [(0, 1)]).setPc 0x208) (fun m => m.pc == 0x20A)
      = true := by decide
theorem test_sne :  -- T15, T16
    ends 0x4311 (regs [(3, 0x10)]) (fun m => m.pc == 0x204) && ends 0x4311 (regs [(3, 0x11)]) (fun m => m.pc == 0x202) = true := by
  decide
theorem test_seReg :  -- T17, T18
    ends 0x5120 (regs [(1, 7), (2, 7)]) (fun m => m.pc == 0x204) && ends 0x5120 (regs [(1, 7), (2, 8)]) (fun m => m.pc == 0x202)
      = true := by decide
theorem test_sneReg :  -- T20, T21
    ends 0x9120 (regs [(1, 7), (2, 7)]) (fun m => m.pc == 0x202) && ends 0x9120 (regs [(1, 7), (2, 8)]) (fun m => m.pc == 0x204)
      = true := by decide
theorem test_skp :  -- T22, T23
    ends 0xE29E ((regs [(2, 0x0E)]).setKey 14 true) (fun m => m.pc == 0x204) && ends 0xE09E (regs [(0, 3)]) (fun m => m.pc == 0x202)
      = true := by decide
theorem test_skp_no_key : faultOf (run 0xE09E (eng (regs [(0, 0x10)]))) = some (.boundsError .key 16) := by decide  -- T24
theorem test_sknp :  -- T25, T26
    ends 0xE2A1 ((regs [(2, 0x0E)]).setKey 14 true) (fun m => m.pc == 0x202) && ends 0xE0A1 (regs [(0, 15)]) (fun m => m.pc == 0x204)
      = true := by decide
theorem test_sknp_no_key : faultOf (run 0xE0A1 (eng (regs [(0, 0xFF)]))) = some (.boundsError .key 255) := by decide  -- T27

/-! ## Loads and ALU -/

theorem test_ldImm : ends 0x60FF (regs []) (fun m => m.readV 0 == 0xFF && m.pc == 0x202) = true := by decide  -- T30
theorem test_ldImm_vf : ends 0x6F00 (regs [(15, 1)]) (fun m => m.readV 15 == 0) = true := by decide  -- T31
theorem test_addImm : ends 0x7122 (regs [(1, 1)]) (fun m => m.readV 1 == 0x23 && m.pc == 0x202) = true := by decide  -- S2
theorem test_addImm_vf : ends 0x7F01 (regs [(15, 0xFF)]) (fun m => m.readV 15 == 0) = true := by decide  -- T33
theorem test_ldReg : ends 0x8120 (regs [(2, 0x5A)]) (fun m => m.readV 1 == 0x5A && m.readV 2 == 0x5A) = true := by decide  -- T34
theorem test_or :  -- T35
    ends 0x8121 (regs [(1, 0xF0), (2, 0x0F), (15, 1)]) (fun m => m.readV 1 == 0xFF && m.readV 15 == 1) = true := by decide
theorem test_and : ends 0x8122 (regs [(1, 0xF3), (2, 0x3C)]) (fun m => m.readV 1 == 0x30) = true := by decide  -- T36
theorem test_xor : ends 0x8123 (regs [(1, 0xFF), (2, 0x0F)]) (fun m => m.readV 1 == 0xF0) = true := by decide  -- T37
theorem test_xor_self : ends 0x8003 (regs [(0, 0x5A)]) (fun m => m.readV 0 == 0) = true := by decide  -- T38
theorem test_addReg :  -- T39, T39b
    ends 0x8014 (regs [(0, 0xFF), (1, 1)]) (fun m => m.readV 0 == 0 && m.readV 15 == 1) &&
    ends 0x8004 (regs [(0, 0x80)]) (fun m => m.readV 0 == 0 && m.readV 15 == 1) = true := by decide
theorem test_addReg_old_vf :  -- T39c
    ends 0x80F4 (regs [(0, 1), (15, 5)]) (fun m => m.readV 0 == 6 && m.readV 15 == 0) = true := by decide
theorem test_sub :  -- T40, T41
    ends 0x8015 (regs [(0, 0), (1, 1)]) (fun m => m.readV 0 == 0xFF && m.readV 15 == 0) &&
    ends 0x8015 (regs [(0, 5), (1, 5)]) (fun m => m.readV 0 == 0 && m.readV 15 == 1) = true := by decide
theorem test_subn :  -- T42, T43
    ends 0x8017 (regs [(0, 3), (1, 0x0A)]) (fun m => m.readV 0 == 7 && m.readV 15 == 1) &&
    ends 0x8017 (regs [(0, 1), (1, 0)]) (fun m => m.readV 0 == 0xFF && m.readV 15 == 0) = true := by decide
theorem test_shr :  -- T44, T46
    ends 0x8006 (regs [(0, 0xFE)]) (fun m => m.readV 0 == 0x7F && m.readV 15 == 0) &&
    ends 0x8006 (regs [(0, 0xFF)]) (fun m => m.readV 0 == 0x7F && m.readV 15 == 1) = true := by decide
theorem test_shr_in_place :  -- T47
    ends 0x8236 (regs [(2, 4), (3, 0xFF)]) (fun m => m.readV 2 == 2 && m.readV 3 == 0xFF && m.readV 15 == 0) = true := by decide
theorem test_shl :  -- T48, T50
    ends 0x800E (regs [(0, 0xFF)]) (fun m => m.readV 0 == 0xFE && m.readV 15 == 1) &&
    ends 0x800E (regs [(0, 0x7F)]) (fun m => m.readV 0 == 0xFE && m.readV 15 == 0) = true := by decide

/-- Destination VF under FlagWins (T55 to T61). -/
theorem test_writeback_flagWins :
    let vf (o : AluOut) : Byte := (writebackWith .flagWins (regs []).V 15 o)[15]
    vf (addOut 0x10 0x20) = 0x00 ∧ vf (addOut 0x80 0x80) = 0x01 ∧ vf (subOut 0x05 0x07) = 0x00 ∧
    vf (subOut 0x07 0x05) = 0x01 ∧ vf (shrOut 0x02) = 0x00 ∧ vf (shrOut 0x03) = 0x01 ∧ vf (shlOut 0x81) = 0x01 := by decide

/-- Destination VF under ResultWins (T55 to T61). -/
theorem test_writeback_resultWins :
    let vf (o : AluOut) : Byte := (writebackWith .resultWins (regs []).V 15 o)[15]
    vf (addOut 0x10 0x20) = 0x30 ∧ vf (addOut 0x80 0x80) = 0x00 ∧ vf (subOut 0x05 0x07) = 0xFE ∧
    vf (subOut 0x07 0x05) = 0x02 ∧ vf (shrOut 0x02) = 0x01 ∧ vf (shrOut 0x03) = 0x01 ∧ vf (shlOut 0x81) = 0x02 := by decide

/-- T52: a zero literal leaves nothing of the draw, whatever it is; the next draw is another. -/
theorem test_rnd_zero : ∃ t, run 0xC100 (eng (regs [(1, 9)])) = .next t ∧ t.S.readV 1 = 0 ∧ t.draws = 1 ∧ t.S.pc = 0x202 :=
  ⟨_, rfl, BitVec.and_zero, rfl, rfl⟩

/-! ## Address register and memory -/

theorem test_ldAddr : ends 0xA300 (regs []) (fun m => m.I == 0x300 && m.pc == 0x202) = true := by decide  -- T62
theorem test_addIVx :  -- T64, T65
    ends 0xF01E ((regs [(0, 1), (15, 9)]).setI 0xFFF) (fun m => m.I == 0x1000 && m.readV 15 == 9) &&
    ends 0xF01E ((regs [(0, 1)]).setI 0xFFFF) (fun m => m.I == 0) = true := by decide
theorem test_ldFont :  -- T67, T68
    ends 0xF029 (regs [(0, 0x0A)]) (fun m => m.I == 0x32) && ends 0xF029 (regs [(0, 0xFF)]) (fun m => m.I == 0x4FB) = true := by
  decide
theorem test_bcd :  -- T71
    ends 0xF033 ((regs [(0, 0xFF)]).setI 0xFFD) (fun m => Memory.readBytes m.mem 0xFFD 3 == [2, 5, 5] && m.I == 0xFFD) = true := by
  decide
theorem test_bcd_bounds :  -- T72, T73
    faultOf (run 0xF033 (eng ((regs []).setI 0xFFE))) = some (.boundsError .mem 0x1000) ∧
    faultOf (run 0xF033 (eng ((regs []).setI 0x1005))) = some (.boundsError .mem 0x1005) := by decide
theorem test_storeRegs :  -- T75
    ends 0xFF55 ((regs [(0, 1), (15, 0xEE)]).setI 0xFF0)
      (fun m => m.mem == [(0xFF0, 1), (0xFFF, 0xEE)] && m.I == 0xFF0) = true := by decide
theorem test_storeRegs_bounds :  -- T76
    faultOf (run 0xFF55 (eng ((regs []).setI 0xFF1))) = some (.boundsError .mem 0x1000) := by decide
theorem test_loadRegs :  -- T79
    ends 0xF265 (withBytes ((regs [(3, 0x99)]).setI 0x300) 0x300 [2, 3, 4])
      (fun m => m.readV 0 == 2 && m.readV 1 == 3 && m.readV 2 == 4 && m.readV 3 == 0x99 && m.I == 0x300) = true := by decide
theorem test_loadRegs_font :  -- T80
    ends 0xFF65 (regs []) (fun m => m.V.toList ==
      [0xF0, 0x90, 0x90, 0x90, 0xF0, 0x20, 0x60, 0x20, 0x20, 0x70, 0xF0, 0x10, 0xF0, 0x80, 0xF0, 0xF0]) = true := by decide

/-! ## Display -/

theorem test_cls :  -- S1
    ends 0x00E0 { regs [] with fb := FrameBuffer.put (regs []).fb 0 0 true }
      (fun m => FrameBuffer.get m.fb 0 0 == false && m.drawFlag && m.pc == 0x202) = true := by decide
theorem test_drw_wraps :  -- T87
    ends 0xD011 (withBytes ((regs [(0, 0xFF), (1, 0xFF)]).setI 0x300) 0x300 [0xFF])
      (fun m => pixels m.fb == [(0, 31), (1, 31), (2, 31), (3, 31), (4, 31), (5, 31), (6, 31), (63, 31)] && m.readV 15 == 0) = true := by
  decide
theorem test_drw_old_vf :  -- T92
    ends 0xDFF1 (withBytes ((regs [(15, 2)]).setI 0x300) 0x300 [0x80])
      (fun m => FrameBuffer.get m.fb 2 2 && m.readV 15 == 0 && m.drawFlag) = true := by decide

/-! ## Timer moves and key wait -/

theorem test_ldVxDt : ends 0xF207 ((regs []).setDT 0x0D) (fun m => m.readV 2 == 0x0D) = true := by decide  -- T94
theorem test_ldDtVx : ends 0xF115 (regs [(1, 0x0E)]) (fun m => m.DT == 0x0E && m.DC == 0) = true := by decide  -- T95
theorem test_ldStVx : ends 0xF318 (regs [(3, 2)]) (fun m => m.ST == 2) = true := by decide  -- T96
theorem test_waitKey :  -- T98
    ends 0xF30A ((regs []).setKey 5 true) (fun m => m.waitReg == some 3 && m.readV 3 == 0 && m.pc == 0x202) = true := by decide

/-! ## Commands -/

/-- DC, DT, ST after each of `n` ticks. -/
def ticks (k : Nat) (m : MachineState) : Nat → List (Byte × Byte × Byte)
  | 0 => []
  | n + 1 => let m' := timerTickWith k m; (m'.DC, m'.DT, m'.ST) :: ticks k m' n

theorem test_timers :  -- A1
    ticks 3 (((regs []).setDT 2).setST 1) 6 =
      [(2, 2, 1), (1, 2, 1), (0, 1, 0), (2, 1, 0), (1, 1, 0), (0, 0, 0)] := by decide
theorem test_timers_edges :  -- A2, A3, A4
    ticks 3 (regs []) 3 = [(2, 0, 0), (1, 0, 0), (0, 0, 0)] ∧ ticks 3 (((regs []).setDC 1).setDT 5) 1 = [(0, 4, 0)] ∧
    ticks 1 ((regs []).setDT 3) 3 = [(0, 2, 0), (0, 1, 0), (0, 0, 0)] := by decide

/-- H1, H2: capacity 2 keeps the two newest, keys zeroed. -/
theorem test_record :
    let S (n : Byte) : MachineState := (regs [(0, n)]).setKey 4 true
    ((recordWith 2 (recordWith 2 (recordWith 2 [] (S 0)) (S 1)) (S 2)).map fun m => (m.readV 0, m.keyHeld 4)) =
      [(1, false), (2, false)] := by decide
theorem test_rewind :  -- H3, H6
    let s : State := { State.reset with history := [regs [(0, 1)], regs [(0, 2)]] }
    (s.rewind.S.readV 0 = 2 ∧ s.rewind.history = [regs [(0, 1)]]) ∧ State.reset.rewind.S = MachineState.reset := by decide
theorem test_key_press_ends_wait :  -- S4
    nx (State.perform (eng ((regs []).setWait (some 1))) (.keyPress 0xE))
      (fun t => t.S.readV 1 == 0x0E && t.S.keyHeld 14 && t.S.waitReg == none && t.response == some .ok) = true := by decide
theorem test_key_release :
    nx (State.perform (eng ((regs []).setKey 3 true)) (.keyRelease 3)) (fun t => t.S.keyHeld 3 == false) = true := by decide
theorem test_load_program :
    nx (State.perform State.reset (.loadProgram [0x60, 0x01]))
      (fun t => t.S.mem == [(0x200, 0x60), (0x201, 0x01)] && t.response == some .ok) = true := by decide
theorem test_current_frame :  -- F2
    nx (State.perform (eng ((regs []).setFb FrameBuffer.clear)) .currentFrame)
      (fun t => t.response == some (.frame (some FrameBuffer.clear)) && t.S.drawFlag == false) = true := by decide
theorem test_refused :  -- L5, L6
    let s : State := { State.reset with fault := some (.decodeError 0 0x200) }
    nx (s.perform .advanceTimers) (fun t => t.response == some .refused && t.S.DC == 0) &&
      nx (s.perform .reset) (fun t => t.fault == none && t.response == some .ok) = true := by decide
theorem test_step_no_program :  -- L4
    nx (step { State.reset with inbox := [.advanceCpu] })
      (fun t => t.fault == some (.decodeError 0 0x200) && t.history.isEmpty && t.S.pc == 0x200) = true := by decide
/-- Between commands nothing changes (rule R170). -/
theorem test_step_idle : step State.reset = .next State.reset := rfl
theorem test_step_takes_command :
    nx (step { State.reset with inbox := [.keyPress 2, .advanceCpu] }) (fun t => t.S.keyHeld 2 && t.inbox == [.advanceCpu]) = true := by
  decide
theorem test_withFetchWord :
    nx (step (State.reset.withFetchWord 16 0x7122))
      (fun t => t.S.readV 1 == 0x22 && t.S.pc == 0x202 && t.response == some .ok && t.inbox.isEmpty) = true := by decide

/-! ## Witnesses -/

theorem historyCapacity_ne_zero : (0 : Nat) ≠ Config.historyCapacity := (Nat.succ_ne_zero _).symm

/-- A full history. -/
def full : List MachineState := List.replicate Config.historyCapacity MachineState.reset

theorem full_length : full.length = Config.historyCapacity := List.length_replicate

theorem reset_S_sound : MachineState.reset.sound := ⟨by decide, Nat.succ_pos _, by decide, by decide, by decide⟩

theorem witness_DecodeEncodeRoundTrip : Instr.wellFormed (.drw 15 15 15) = true := by decide
theorem witness_EncodeDecodeRoundTrip : decode 0xDFFF = .ok (.drw 15 15 15) := by decide
theorem witness_DecodeFollowsOpcodeTable : decode 0xF165 = .ok (.loadRegs 1) ∧ decode 0xFFFF = .error .groupF := by decide

theorem witness_StepRunsDecodedInstruction :
    let s := eng (withBytes ((regs []).setPc 0xFFE) 0xFFE [0x60, 0x07])
    s.fault = none ∧ s.S.waitReg = none ∧ s.S.pc.toNat ≤ 0xFFE ∧
      decode (Memory.read s.S.mem s.S.pc.toNat ++ Memory.read s.S.mem (s.S.pc.toNat + 1)) = .ok (.ldImm 0 7) := by decide

theorem witness_StepRunsDecodedInstruction_waiting :
    let s : State := { eng (withBytes (regs []) 0x200 [0x71, 0x22]) with inbox := [.advanceCpu, .rewind] }
    s.inbox = .advanceCpu :: [.rewind] ∧ s.fault = none ∧ s.S.waitReg = none ∧ s.S.pc.toNat ≤ 0xFFE ∧
      decode (Memory.read s.S.mem s.S.pc.toNat ++ Memory.read s.S.mem (s.S.pc.toNat + 1)) = .ok (.addImm 1 0x22) := by decide

theorem witness_StepPerformsOldestCommand :
    State.inbox { State.reset with inbox := [.rewind] } = .rewind :: [] ∧ State.reset.inbox = [] := by decide

theorem witness_AwaitingKeyArchivesUnchangedState :
    let s := eng ((regs []).setWait (some 15))
    let u : State := { s with history := full }
    (s.fault = none ∧ s.S.waitReg = some 15 ∧ s.history.length ≠ Config.historyCapacity) ∧
      (u.fault = none ∧ u.S.waitReg = some 15 ∧ u.history.length = Config.historyCapacity) :=
  ⟨⟨rfl, rfl, historyCapacity_ne_zero⟩, rfl, rfl, full_length⟩

theorem witness_AdvanceCpuTakesFirstFault_fetch :
    let s := eng ((regs []).setPc 0xFFF)
    let u := eng ((regs []).setPc 0x1000)
    (s.fault = none ∧ s.S.waitReg = none ∧ s.S.pc = 0xFFF) ∧ (u.fault = none ∧ u.S.waitReg = none ∧ 0x1000 ≤ u.S.pc.toNat) := by
  decide

theorem witness_AdvanceCpuTakesFirstFault_decode :
    let s := eng ((regs []).setPc 0xFFE)
    s.fault = none ∧ s.S.waitReg = none ∧ s.S.pc.toNat ≤ 0xFFE ∧
      decode (Memory.read s.S.mem s.S.pc.toNat ++ Memory.read s.S.mem (s.S.pc.toNat + 1)) = .error .group0 := by decide

theorem witness_AdvanceCpuTakesFirstFault_exec :
    let s := eng (withBytes (regs []) 0x200 [0x00, 0xEE])
    s.fault = none ∧ s.S.waitReg = none ∧ s.S.pc.toNat ≤ 0xFFE ∧
      decode (Memory.read s.S.mem s.S.pc.toNat ++ Memory.read s.S.mem (s.S.pc.toNat + 1)) = .ok .ret ∧
      exec .ret s = .fault (.boundsError .stack 0) := ⟨rfl, rfl, by decide, by decide, rfl⟩

theorem witness_FaultedEngineRefusesAllButReset :
    State.fault { State.reset with fault := some (.decodeError 0 0x200) } ≠ none ∧ Command.rewind ≠ .reset ∧
      Command.rewind ≠ .currentFrame := by decide

theorem witness_OnlyAdvanceCpuArchives_other :
    (∃ t, State.reset.perform (.keyPress 0) = .next t) ∧ Command.keyPress 0 ≠ .advanceCpu ∧ Command.keyPress 0 ≠ .rewind ∧
      Command.keyPress 0 ≠ .reset := ⟨⟨_, rfl⟩, by decide, by decide, by decide⟩

theorem witness_OnlyAdvanceCpuArchives_rewind :
    let s : State := { State.reset with history := [MachineState.reset] }
    let u : State := { s with fault := some (.decodeError 0 0x200) }
    (∃ t, s.perform .rewind = .next t) ∧ (∃ t, u.perform .rewind = .next t) ∧ (∃ t, u.perform .reset = .next t) :=
  ⟨⟨_, rfl⟩, ⟨_, rfl⟩, _, rfl⟩

theorem witness_OnlyAdvanceCpuArchives_ok :
    ∃ t, (State.reset.withFetchWord 16 0x7122).perform .advanceCpu = .next t ∧ t.response = some .ok := ⟨_, rfl, rfl⟩

theorem witness_OnlyAdvanceCpuArchives_fault :
    ∃ t, State.reset.perform .advanceCpu = .next t ∧ t.response ≠ some .ok := ⟨_, rfl, by decide⟩

theorem witness_WaitChangesOnlyByListedEvents_waitKey :
    ∃ t, (State.reset.withFetchWord 16 0xF10A).perform .advanceCpu = .next t ∧ t.S.waitReg ≠ none := ⟨_, rfl, by decide⟩

theorem witness_WaitChangesOnlyByListedEvents_keyPress :
    let s := eng ((regs []).setWait (some 15))
    ∃ t, s.perform (.keyPress 15) = .next t ∧ t.S.waitReg ≠ s.S.waitReg := ⟨_, rfl, by decide⟩

theorem witness_WaitChangesOnlyByListedEvents_reset :
    let s := eng ((regs []).setWait (some 0))
    ∃ t, s.perform .reset = .next t ∧ t.S.waitReg ≠ s.S.waitReg := ⟨_, rfl, by decide⟩

theorem witness_WaitChangesOnlyByListedEvents_rewind :
    let s : State := { eng ((regs []).setWait (some 0)) with history := [MachineState.reset] }
    ∃ t, s.perform .rewind = .next t ∧ t.S.waitReg ≠ s.S.waitReg := ⟨_, rfl, by decide⟩

theorem witness_RecordEvictsAndZeroesKeys :
    ([] : List MachineState).length ≠ Config.historyCapacity ∧ ([] : List MachineState).length ≤ Config.historyCapacity ∧
      full.length = Config.historyCapacity ∧ full.length ≤ Config.historyCapacity :=
  ⟨historyCapacity_ne_zero, Nat.zero_le _, full_length, full_length.le⟩

theorem witness_RewindInstallsNewestArchive_empty : State.reset.fault = none ∧ State.reset.history = [] := by decide

theorem witness_RewindInstallsNewestArchive :
    let s : State := { State.reset with history := [MachineState.reset] }
    s.fault = none ∧ s.history = [] ++ [MachineState.reset] ∧ s.sound := by
  refine ⟨rfl, rfl, reset_S_sound, Nat.succ_le_succ (Nat.zero_le _), fun m hm => ?_⟩
  cases List.mem_singleton.1 hm
  exact ⟨reset_S_sound, by decide⟩

theorem witness_HistoryKeepsMostRecent : full.length ≤ Config.historyCapacity := full_length.le

theorem witness_AdvanceThenRewindRestoresState_ok :
    let s := State.reset.withFetchWord 16 0x7122
    let u : State := { s with history := full }
    (s.fault = none ∧ s.history.length < Config.historyCapacity ∧
      ∃ t, s.perform .advanceCpu = .next t ∧ t.response = some .ok) ∧
    (u.fault = none ∧ u.history.length = Config.historyCapacity ∧
      ∃ t, u.perform .advanceCpu = .next t ∧ t.response = some .ok) :=
  ⟨⟨rfl, Nat.succ_pos _, _, rfl, rfl⟩, rfl, full_length, _, rfl, rfl⟩

theorem witness_AdvanceThenRewindRestoresState_fault :
    State.reset.fault = none ∧ State.reset.history.length ≤ Config.historyCapacity ∧
      ∃ t, State.reset.perform .advanceCpu = .next t ∧ t.response ≠ some .ok := ⟨rfl, Nat.zero_le _, _, rfl, by decide⟩

/-- The premise of AdvanceTimersCountsDown, KeyPressMarksKeyAndEndsWait, KeyReleaseClearsKey and CurrentFrameAnswersAndClears. -/
theorem witness_unfaulted_commands : State.reset.fault = none := rfl

theorem witness_TimersDecrementOncePerDivider :
    0 < (if MachineState.reset.DC = 0 then Config.timerDivider else MachineState.reset.DC.toNat) := Nat.succ_pos _

theorem witness_LoadProgramCopiesBytes :
    State.reset.fault = none ∧ (List.replicate 3584 (0xAA : Byte)).length ≤ 3584 ∧
      3584 < (List.replicate 3585 (0xAA : Byte)).length :=
  ⟨rfl, List.length_replicate.le, List.length_replicate.symm ▸ Nat.lt_succ_self _⟩

theorem witness_MemoryAccessIsAllOrNothing :
    0xFFF + ([1] : List Byte).length ≤ 0x1000 ∧ 0xFFF + 1 ≤ 0x1000 ∧ ([1, 2] : List Byte) ≠ [] ∧
      0x1000 < 0xFFF + ([1, 2] : List Byte).length ∧ 0x1000 < 0x1000 + 1 := by decide

theorem witness_FetchReadsStoredWord : ((regs []).setPc 0xFFE).pc.toNat ≤ 0xFFE := by decide

theorem witness_ExecKeepsUnwrittenFields : ∃ t, exec (.waitKey 1) State.reset = .next t := ⟨_, rfl⟩

theorem witness_ExecKeepsUnwrittenRegisters :
    (∃ t, exec (.loadRegs 14) State.reset = .next t) ∧ writesReg 15 (.loadRegs 14) = false := ⟨⟨_, rfl⟩, by decide⟩

theorem witness_ExecKeepsUnaddressedMemory :
    let s := eng ((regs []).setI 0xFFC)
    (∃ t, exec (.bcd 0) s = .next t) ∧ storesTo s.S 0xFFB (.bcd 0) = false ∧ storesTo s.S 0xFFF (.bcd 0) = false :=
  ⟨⟨_, rfl⟩, by decide, by decide⟩

theorem witness_ExecFaultsExactlyAsTabulated :
    faultIn (regs []) .ret = some (.boundsError .stack 0) ∧ faultIn (depth 16 (regs [])) .ret = none ∧
      faultIn ((regs []).setI 0xFFF) (.storeRegs 0) = none ∧
      faultIn ((regs []).setI 0xFFF) (.storeRegs 1) = some (.boundsError .mem 0x1000) := by decide

theorem witness_JpSetsPc_self : State.reset.S.pc.toNat = (0x200 : Addr).toNat := by decide

theorem witness_CallPushesReturnAddress : (depth 15 (regs [])).SP.toNat < 16 ∧ 16 ≤ (depth 16 (regs [])).SP.toNat := by decide

theorem witness_RetPopsReturnAddress :
    (depth 16 (regs [])).SP.toNat = (15 : Fin 16).val + 1 ∧ (depth 1 (regs [])).SP.toNat = (0 : Fin 16).val + 1 ∧
      (regs []).SP = 0 ∧ 16 < (depth 17 (regs [])).SP.toNat := by decide

theorem witness_KeySkipsReadKeyOrFault :
    ((regs [(0, 15)]).readV 0).toNat = (15 : Reg).val ∧ 15 < ((regs [(0, 16)]).readV 0).toNat := by decide

theorem witness_RndSetsMaskedDraw : (0x7F : Byte).getLsbD 7 = false := by decide

theorem witness_BcdStoresThreeDigits :
    ((regs []).setI 0xFFD).dataAddr + 2 ≤ 0xFFF ∧ 0xFFF < ((regs []).setI 0xFFE).dataAddr + 2 := by decide

theorem witness_StoreRegsStoresBlock :
    ((regs []).setI 0xFF0).dataAddr + (15 : Reg).val ≤ 0xFFF ∧ 0xFFF < ((regs []).setI 0xFF1).dataAddr + (15 : Reg).val := by
  decide

theorem witness_LoadRegsLoadsBlock :
    ((regs []).setI 0xFFF).dataAddr + (0 : Reg).val ≤ 0xFFF ∧ 0xFFF < ((regs []).setI 0xFFF).dataAddr + (1 : Reg).val := by
  decide

theorem witness_DrwXorsSpriteAndFlagsCollision :
    (0 : BitVec 4) = 0 ∧ ((regs []).setI 0xFF1).dataAddr + (15 : BitVec 4).toNat ≤ 0x1000 ∧ (1 : BitVec 4) ≠ 0 ∧
      0x1000 < ((regs []).setI 0xFFF).dataAddr + (2 : BitVec 4).toNat := by decide

theorem witness_DrwXorsSpriteAndFlagsCollision_collides :
    let m := withBytes ((regs []).setI 0x300) 0x300 [0x80]
    FrameBuffer.get (FrameBuffer.put m.fb 0 0 true) 0 0 = true ∧ spriteBit m 1 0 0 0 0 = true ∧ spriteBit m 1 0 0 0 1 = false := by
  decide

theorem witness_DrwTwiceRestoresFrame :
    (14 : Reg) ≠ 15 ∧ (0 : Reg) ≠ 15 ∧ ((regs []).setI 0xFFF).dataAddr + (1 : BitVec 4).toNat ≤ 0x1000 := by decide

theorem witness_StepKeepsSoundness :
    let s : State := { State.reset with inbox := [.advanceTimers] }
    s.sound ∧ ∃ t, step s = .next t ∧ t.response = some .ok :=
  ⟨⟨reset_S_sound, Nat.zero_le _, fun _ h => absurd h List.not_mem_nil⟩, _, rfl, rfl⟩

end Sys2Proof.Tests
end

section
/-! PROOFS. The statements of the driver's scope: one command a step (rule R170). -/

namespace Sys2Proof.Machine

/-- With a command waiting, a step takes the oldest and performs it (rule R170). -/
theorem step_of_inbox_cons {s : State} {c : Command} {cs : List Command} (h : s.inbox = c :: cs) :
    step s = State.perform { s with inbox := cs } c := by
  obtain ⟨hnil, -⟩ | ⟨c', cs', hcons, hserve⟩ := State.serve_cases s
  · rw [h] at hnil
    cases hnil
  · obtain ⟨rfl, rfl⟩ := List.cons.inj (h.symm.trans hcons)
    exact hserve

/-- With no command waiting, a step changes nothing (rule R170). -/
theorem step_of_inbox_nil {s : State} (h : s.inbox = []) : step s = .next s := by
  obtain ⟨-, hserve⟩ | ⟨c, cs, hcons, -⟩ := State.serve_cases s
  · exact hserve
  · rw [h] at hcons
    cases hcons

/-- Settles O7: the two cases of serving the inbox are its two clauses. -/
theorem stepPerformsOldestCommand : Obligations.StepPerformsOldestCommand :=
  ⟨fun _ _ _ h => step_of_inbox_cons h, fun _ h => step_of_inbox_nil h⟩

end Sys2Proof.Machine
end

section
/-!
PROOFS. The frames of spec/10_state.md: what an instruction leaves unchanged, field by field, register by register and byte by byte
(rules R40, R51).
-/

namespace Sys2Proof.Machine

variable {s t u : State}

/-! ## Agreeing on all fields but some -/

/-- A property of every field is eighteen properties. -/
theorem Field.forall {p : Field → Prop} :
    (∀ f, p f) ↔ p .V ∧ p .I ∧ p .pc ∧ p .SP ∧ p .stack ∧ p .mem ∧ p .fb ∧ p .drawFlag ∧ p .DT ∧ p .ST ∧ p .DC ∧
      p .keys ∧ p .waitReg ∧ p .history ∧ p .fault ∧ p .inbox ∧ p .response ∧ p .draws := by
  constructor
  · intro h
    simp only [h, and_self]
  · intro h f
    cases f <;> simp only [h]

theorem Field.same_trans {f : Field} (h : Field.same s t f) (h' : Field.same t u f) : Field.same s u f := by
  cases f with
  | V | stack | mem | keys => exact fun k => (h' k).trans (h k)
  | fb => exact fun r c => (h' r c).trans (h r c)
  | _ => exact Eq.trans h' h

theorem sameBut.trans {fs gs : List Field} (h : sameBut fs s t) (h' : sameBut gs t u) : sameBut (gs ++ fs) s u :=
  fun f hf => Field.same_trans (h f fun hfs => hf (List.mem_append_right gs hfs))
    (h' f fun hgs => hf (List.mem_append_left fs hgs))

/-! ## The fields each update writes: Field.forall checks every other one by its read lemma -/

theorem sameBut_setPc (s : State) (w : Word) : sameBut [.pc] s { s with S := s.S.setPc w } := by
  simp [sameBut, Field.forall, Field.same]

theorem sameBut_setV (s : State) (V : Vector Byte 16) : sameBut [.V] s { s with S := s.S.setV V } := by
  simp [sameBut, Field.forall, Field.same]

theorem sameBut_setI (s : State) (w : Word) : sameBut [.I] s { s with S := s.S.setI w } := by
  simp [sameBut, Field.forall, Field.same]

theorem sameBut_setMem (s : State) (mem' : Memory) : sameBut [.mem] s { s with S := s.S.setMem mem' } := by
  simp [sameBut, Field.forall, Field.same]

theorem sameBut_setFb (s : State) (f : FrameBuffer) : sameBut [.fb, .drawFlag] s { s with S := s.S.setFb f } := by
  simp [sameBut, Field.forall, Field.same]

theorem sameBut_setDT (s : State) (b : Byte) : sameBut [.DT] s { s with S := s.S.setDT b } := by
  simp [sameBut, Field.forall, Field.same]

theorem sameBut_setST (s : State) (b : Byte) : sameBut [.ST] s { s with S := s.S.setST b } := by
  simp [sameBut, Field.forall, Field.same]

theorem sameBut_setWait (s : State) (w : Option Reg) : sameBut [.waitReg] s { s with S := s.S.setWait w } := by
  simp [sameBut, Field.forall, Field.same]

theorem sameBut_setStack (s : State) (sp : Byte) (stack' : Vector Word 16) :
    sameBut [.SP, .stack] s { s with S := { s.S with SP := sp, stack := stack' } } := by
  simp [sameBut, Field.forall, Field.same, MachineState.readV, MachineState.keyHeld]

theorem sameBut_setSP (s : State) (sp : Byte) : sameBut [.SP] s { s with S := { s.S with SP := sp } } := by
  simp [sameBut, Field.forall, Field.same, MachineState.readV, MachineState.keyHeld]

theorem sameBut_setDraws (s : State) (n : Nat) : sameBut [.draws] s { s with draws := n } := by
  simp [sameBut, Field.forall, Field.same]

/-- An update of S, then pc written: every instruction ends so. -/
theorem sameBut.setPc {fs : List Field} {m : MachineState} (h : sameBut fs s { t with S := m }) (w : Word) :
    sameBut (.pc :: fs) s { t with S := m.setPc w } :=
  h.trans (sameBut_setPc _ w)

/-! ## The next state of an instruction that may fault -/

theorem State.next_of_install {m : MachineState} (h : s.install m = .next t) : t = { s with S := m } :=
  (Host.Outcome.next.inj h).symm

/-- A CALL that completes has pushed the return address (rule R102). -/
theorem execCall_next {nnn : Addr} (h : execCall nnn s = .next t) :
    ∃ hsp : s.S.SP.toNat < 16,
      let pushed := { s.S with stack := s.S.stack.set s.S.SP.toNat (s.S.pc + 2) hsp, SP := s.S.SP + 1 }
      t = { s with S := pushed.setPc (zext12 nnn) } := by
  unfold execCall at h
  obtain ⟨hsp, e⟩ | ⟨-, e⟩ := s.S.push_cases (s.S.pc + 2) <;> rw [e] at h
  · exact ⟨hsp, State.next_of_install h⟩
  · cases h

/-- A RET that completes has popped its target (rule R103). -/
theorem execRet_next (h : execRet s = .next t) :
    ∃ k : Fin 16, s.S.SP.toNat = k.val + 1 ∧
      t = { s with S := MachineState.setPc { s.S with SP := s.S.SP - 1 } s.S.stack[k.val] } := by
  unfold execRet at h
  obtain ⟨k, hk, e⟩ | ⟨-, e⟩ := s.S.pop_cases <;> rw [e] at h
  · exact ⟨k, hk, State.next_of_install h⟩
  · cases h

/-- A SKP that completes has tested the key its register names (rule R115). -/
theorem execSkp_next {x : Reg} (h : execSkp x s = .next t) :
    ∃ k : Reg, (s.S.readV x).toNat = k.val ∧ t = { s with S := s.S.skipIf (s.S.keyHeld k) } := by
  unfold execSkp at h
  obtain ⟨k, hk, e⟩ | ⟨-, e⟩ := keyOperand_cases (s.S.readV x) <;> rw [e] at h
  · exact ⟨k, hk, State.next_of_install h⟩
  · cases h

/-- A SKNP that completes has tested the key its register names (rule R116). -/
theorem execSknp_next {x : Reg} (h : execSknp x s = .next t) :
    ∃ k : Reg, (s.S.readV x).toNat = k.val ∧ t = { s with S := s.S.skipIf (!s.S.keyHeld k) } := by
  unfold execSknp at h
  obtain ⟨k, hk, e⟩ | ⟨-, e⟩ := keyOperand_cases (s.S.readV x) <;> rw [e] at h
  · exact ⟨k, hk, State.next_of_install h⟩
  · cases h

/-- A DRW that completes has drawn a picture and written a collision flag to VF (rule R152). -/
theorem execDrw_next {x y : Reg} {n : Nat} (h : execDrw x y n s = .next t) :
    ∃ (f : FrameBuffer) (b : Byte), t = { s with S := ((s.S.setFb f).writeV 15 b).advance } := by
  unfold execDrw at h
  obtain ⟨-, e⟩ | ⟨-, -, e⟩ := memRead_cases s.S.mem s.S.dataAddr n <;> rw [e] at h
  · exact ⟨_, _, State.next_of_install h⟩
  · cases h

/-- A LOAD_REGS that completes has loaded the x + 1 bytes at I (rule R145). -/
theorem execLoadRegs_next {x : Reg} (h : execLoadRegs x s = .next t) :
    t = { s with S := (s.S.setRegBlock (Memory.readBytes s.S.mem s.S.dataAddr (x.val + 1))).advance } := by
  unfold execLoadRegs at h
  obtain ⟨-, e⟩ | ⟨-, -, e⟩ := memRead_cases s.S.mem s.S.dataAddr (x.val + 1) <;> rw [e] at h
  · exact State.next_of_install h
  · cases h

/-- A store at I that completes has stored all its bytes (rule R63). -/
theorem State.storeAtI_next {bs : List Byte} (h : s.storeAtI bs = .next t) :
    t = { s with S := (s.S.setMem (Memory.writeBytes s.S.mem s.S.dataAddr bs)).advance } := by
  obtain ⟨-, e⟩ | ⟨-, -, e⟩ := State.storeAtI_cases s bs <;> rw [e] at h
  · exact (Host.Outcome.next.inj h).symm
  · cases h

/-! ## Fields -/

/-- An instruction writes pc and the fields rule R51 lists for it; the cases are the ways an instruction ends. -/
theorem exec_sameBut {i : Instr} (h : exec i s = .next t) : sameBut (.pc :: writtenFields i) s t := by
  cases i with
  | jp | jpOffset | se | sne | seReg | sneReg =>
    obtain rfl := State.next_of_install h
    exact sameBut_setPc s _
  | skp =>
    obtain ⟨k, -, rfl⟩ := execSkp_next h
    exact sameBut_setPc s _
  | sknp =>
    obtain ⟨k, -, rfl⟩ := execSknp_next h
    exact sameBut_setPc s _
  | call =>
    obtain ⟨hsp, rfl⟩ := execCall_next h
    exact (sameBut_setStack s _ _).setPc _
  | ret =>
    obtain ⟨k, -, rfl⟩ := execRet_next h
    exact (sameBut_setSP s _).setPc _
  | ldImm | addImm | ldReg | or | and | xor | addReg | sub | shr | subn | shl | ldVxDt =>
    obtain rfl := State.next_of_install h
    exact (sameBut_setV s _).setPc _
  | loadRegs =>
    obtain rfl := execLoadRegs_next h
    exact (sameBut_setV s _).setPc _
  | rnd =>
    obtain rfl := State.next_of_install h
    exact ((sameBut_setDraws s _).trans (sameBut_setV _ _)).setPc _
  | ldAddr | addIVx | ldFont =>
    obtain rfl := State.next_of_install h
    exact (sameBut_setI s _).setPc _
  | bcd | storeRegs =>
    obtain rfl := State.storeAtI_next h
    exact (sameBut_setMem s _).setPc _
  | cls =>
    obtain rfl := State.next_of_install h
    exact (sameBut_setFb s _).setPc _
  | drw =>
    obtain ⟨f, b, rfl⟩ := execDrw_next h
    exact ((sameBut_setFb s f).trans (sameBut_setV _ _)).setPc _
  | ldDtVx =>
    obtain rfl := State.next_of_install h
    exact (sameBut_setDT s _).setPc _
  | ldStVx =>
    obtain rfl := State.next_of_install h
    exact (sameBut_setST s _).setPc _
  | waitKey =>
    obtain rfl := State.next_of_install h
    exact (sameBut_setWait s _).setPc _

/-- Settles O28: each instruction ends in updates of the fields listed for it. -/
theorem execKeepsUnwrittenFields : Obligations.ExecKeepsUnwrittenFields :=
  fun _ _ _ h => exec_sameBut h

/-! ## Registers -/

/-- A plain result goes to its destination alone (rule R40). -/
theorem State.finishV_readV_of_ne {x j : Reg} {b : Byte} (h : s.finishV x b = .next t) (hj : j ≠ x) :
    t.S.readV j = s.S.readV j := by
  obtain rfl := State.next_of_install h
  simp [hj]

/-- A result with a flag goes to its destination and VF alone (rule R131). -/
theorem State.finishAlu_readV_of_ne {x j : Reg} {o : AluOut} (h : s.finishAlu x o = .next t) (hj : j ≠ x)
    (hf : j ≠ 15) : t.S.readV j = s.S.readV j := by
  obtain rfl := State.next_of_install h
  simp [writeback_readV, hj, hf]

/-- Settles O29: an instruction without a destination leaves V as a whole, any other ends in writing the registers it names. -/
theorem execKeepsUnwrittenRegisters : Obligations.ExecKeepsUnwrittenRegisters := by
  intro i s t j h hj
  cases i with
  | ldImm | addImm | ldReg | or | and | xor | ldVxDt =>
    exact State.finishV_readV_of_ne h (beq_eq_false_iff_ne.1 hj)
  | rnd =>
    exact State.finishV_readV_of_ne (s := { s with draws := s.draws + 1 }) h (beq_eq_false_iff_ne.1 hj)
  | addReg | sub | shr | subn | shl =>
    obtain ⟨hx, hf⟩ := Bool.or_eq_false_iff.1 hj
    exact State.finishAlu_readV_of_ne h (beq_eq_false_iff_ne.1 hx) (beq_eq_false_iff_ne.1 hf)
  | drw =>
    obtain ⟨f, b, rfl⟩ := execDrw_next h
    have hf : j ≠ 15 := beq_eq_false_iff_ne.1 hj
    simp [hf]
  | loadRegs x =>
    obtain rfl := execLoadRegs_next h
    have hx : ¬ j.val < x.val + 1 := fun hlt => of_decide_eq_false hj (Nat.le_of_lt_succ hlt)
    simp [MachineState.setRegBlock_readV, hx]
  | _ => exact exec_sameBut h .V (by simp [writtenFields]) j

/-! ## Memory -/

/-- A store at I leaves every byte outside its extent (rule R63). -/
theorem State.storeAtI_read_of_not_mem {bs : List Byte} {a : Nat} (h : s.storeAtI bs = .next t)
    (ha : ¬ (s.S.dataAddr ≤ a ∧ a < s.S.dataAddr + bs.length)) : Memory.read t.S.mem a = Memory.read s.S.mem a := by
  obtain rfl := State.storeAtI_next h
  rw [MachineState.advance_mem, MachineState.setMem_mem, Memory.read_writeBytes, if_neg ha]

/-- Settles O30: only BCD and STORE_REGS write memory, and each is one store at I. -/
theorem execKeepsUnaddressedMemory : Obligations.ExecKeepsUnaddressedMemory := by
  intro i s t a h ha
  cases i with
  | bcd => exact State.storeAtI_read_of_not_mem h (of_decide_eq_false ha)
  | storeRegs x =>
    refine State.storeAtI_read_of_not_mem h ?_
    rw [MachineState.regBlock_length]
    exact of_decide_eq_false ha
  | _ => exact exec_sameBut h .mem (by simp [writtenFields]) a

end Sys2Proof.Machine
end

section
/-!
PROOFS. MemRead and MemWrite (rules R62, R63 of spec/20_memory.md) on either side of the end of memory: the two branches of their
inversion lemmas exclude each other, so the extent alone decides which one is taken.
-/

namespace Sys2Proof.Machine

/-- A write whose extent lies inside memory stores its bytes (rule R63). -/
theorem memWrite_of_inside (m : Memory) {a : Nat} {bs : List Byte} (h : bs = [] ∨ a + bs.length ≤ 0x1000) :
    memWrite m a bs = .ok (Memory.writeBytes m a bs) := by
  obtain ⟨-, e⟩ | ⟨hne, hout, -⟩ := memWrite_cases m a bs
  · exact e
  · exact absurd h (not_or.2 ⟨hne, Nat.not_le.2 hout⟩)

/-- A write whose extent leaves memory faults with the lowest invalid address (rule R63, decision D21). -/
theorem memWrite_of_outside (m : Memory) {a : Nat} {bs : List Byte} (hne : bs ≠ []) (hout : 0x1000 < a + bs.length) :
    memWrite m a bs = .error (.boundsError .mem (BitVec.ofNat 16 (lowestInvalid a))) := by
  obtain ⟨h, -⟩ | ⟨-, -, e⟩ := memWrite_cases m a bs
  · exact absurd h (not_or.2 ⟨hne, Nat.not_le.2 hout⟩)
  · exact e

/-- A read whose extent lies inside memory gives its bytes (rule R62). -/
theorem memRead_of_inside (m : Memory) {a n : Nat} (h : n = 0 ∨ a + n ≤ 0x1000) :
    memRead m a n = .ok (Memory.readBytes m a n) := by
  obtain ⟨-, e⟩ | ⟨hne, hout, -⟩ := memRead_cases m a n
  · exact e
  · exact absurd h (not_or.2 ⟨hne, Nat.not_le.2 hout⟩)

/-- A read whose extent leaves memory faults with the lowest invalid address (rule R62, decision D21). -/
theorem memRead_of_outside (m : Memory) {a n : Nat} (hne : n ≠ 0) (hout : 0x1000 < a + n) :
    memRead m a n = .error (.boundsError .mem (BitVec.ofNat 16 (lowestInvalid a))) := by
  obtain ⟨h, -⟩ | ⟨-, -, e⟩ := memRead_cases m a n
  · exact absurd h (not_or.2 ⟨hne, Nat.not_le.2 hout⟩)
  · exact e

/-- Settles O26: the extent decides between the stored or given bytes, whose values are the read laws of a run of bytes, and the
fault, whose address is `lowestInvalid` written out. -/
theorem memoryAccessIsAllOrNothing : Obligations.MemoryAccessIsAllOrNothing := by
  intro m a
  refine ⟨fun bs h => ?written, fun n h => ?given, fun bs => memWrite_of_outside m, fun n => memRead_of_outside m⟩
  case written => exact ⟨_, memWrite_of_inside m h, Memory.read_writeBytes bs m a⟩
  case given => exact ⟨_, memRead_of_inside m h, Memory.readBytes_length m a n, Memory.readBytes_getD m a n⟩

end Sys2Proof.Machine
end

section
/-!
PROOFS. Register loads and ALU (spec/42_load_alu.md): the instructions that give one register a plain result, and RND among them
(rule R133).
-/

namespace Sys2Proof.Machine

/-- A plain result is what its destination reads next, and no other register changes. -/
theorem setsReg_of_S_eq_writeV {s t : State} {x : Reg} {b : Byte} (h : t.S = (s.S.writeV x b).advance) :
    setsReg x b s t := by
  intro j
  rw [h, MachineState.advance_readV, MachineState.writeV_readV]

/-- The word Cxkk is RND (rule R133). -/
theorem decode_encXkk_rnd (x : Reg) (kk : Byte) : decode (encXkk 0xC x kk) = .ok (.rnd x kk) := by
  simp [decode]

/-- RND always completes: the masked draw goes to its destination and the counter of draws advances (rule R133, log 4). -/
theorem exec_rnd (x : Reg) (kk : Byte) (s : State) :
    exec (.rnd x kk) s =
      .next { s with S := (s.S.writeV x (Config.draw s.draws &&& kk)).advance, draws := s.draws + 1 } := rfl

/-- Settles O44: the next state of RND is explicit, and its destination reads the masked draw, in which every bit the literal lacks
is clear. -/
theorem rndSetsMaskedDraw : Obligations.RndSetsMaskedDraw := by
  intro x kk
  refine ⟨decode_encXkk_rnd x kk, fun s => ⟨_, exec_rnd x kk s, ?_⟩⟩
  refine ⟨setsReg_of_S_eq_writeV rfl, rfl, fun b hb => ?masked, rfl, exec_sameBut (exec_rnd x kk s)⟩
  case masked =>
    rw [MachineState.advance_readV, MachineState.writeV_readV, if_pos rfl, BitVec.getLsbD_and, hb, Bool.and_false]

end Sys2Proof.Machine
end

section
/-!
PROOFS. The block moves between the registers V0 to Vx and the bytes at I (rules R144, R145 of spec/43_index_memory.md): the extent
decides between a next state written out and the fault.
-/

namespace Sys2Proof.Machine

/-- The word Fx55 is STORE_REGS (rule R144). -/
theorem decode_encXkk_storeRegs (x : Reg) : decode (encXkk 0xF x 0x55) = .ok (.storeRegs x) := by
  simp [decode, decodeF]

/-- The word Fx65 is LOAD_REGS (rule R145). -/
theorem decode_encXkk_loadRegs (x : Reg) : decode (encXkk 0xF x 0x65) = .ok (.loadRegs x) := by
  simp [decode, decodeF]

/-- The lowest invalid address of an access at I, as a word: I itself when it is invalid (decision D21). -/
theorem MachineState.ofNat_lowestInvalid_dataAddr (m : MachineState) :
    BitVec.ofNat 16 (lowestInvalid m.dataAddr) = if 0xFFF < m.dataAddr then m.I else 0x1000 := by
  unfold lowestInvalid
  split
  · exact (BitVec.ofNat_toNat 16 m.I).trans (BitVec.setWidth_eq m.I)
  · rfl

/-! ## STORE_REGS -/

/-- A block that fits into memory is stored at I (rule R144). -/
theorem exec_storeRegs_of_inside {x : Reg} {s : State} (h : s.S.dataAddr + x.val ≤ 0xFFF) :
    exec (.storeRegs x) s =
      .next { s with S := (s.S.setMem (Memory.writeBytes s.S.mem s.S.dataAddr (s.S.regBlock x))).advance } := by
  obtain ⟨-, e⟩ | ⟨-, hout, -⟩ := State.storeAtI_cases s (s.S.regBlock x)
  · exact e
  · rw [MachineState.regBlock_length] at hout
    omega

/-- A block that does not fit faults (rule R144, decision D21). -/
theorem exec_storeRegs_of_outside {x : Reg} {s : State} (h : 0xFFF < s.S.dataAddr + x.val) :
    exec (.storeRegs x) s = .fault (.boundsError .mem (if 0xFFF < s.S.dataAddr then s.S.I else 0x1000)) := by
  have hlen := s.S.regBlock_length x
  obtain ⟨hnil | hin, -⟩ | ⟨-, -, e⟩ := State.storeAtI_cases s (s.S.regBlock x)
  · rw [hnil] at hlen
    cases hlen
  · omega
  · rw [← MachineState.ofNat_lowestInvalid_dataAddr]
    exact e

/-- Byte j of a stored block is register Vj (rule R144). -/
theorem MachineState.read_writeBytes_regBlock (m : MachineState) (mem : Memory) (a : Nat) {x j : Reg} (hj : j ≤ x) :
    Memory.read (Memory.writeBytes mem a (m.regBlock x)) (a + j.val) = m.readV j := by
  have hjx : j.val ≤ x.val := hj
  rw [Memory.read_writeBytes, regBlock_length, if_pos (by omega), Nat.add_sub_cancel_left, regBlock_getD m x j hj]

/-- Settles O48: a block that fits reads back register by register; every byte outside it is kept, as by any store at I. -/
theorem storeRegsStoresBlock : Obligations.StoreRegsStoresBlock := by
  intro x
  refine ⟨decode_encXkk_storeRegs x, fun s => ⟨fun hin => ?stored, exec_storeRegs_of_outside⟩⟩
  case stored =>
    have e := exec_storeRegs_of_inside hin
    refine ⟨_, e, fun j hj => s.S.read_writeBytes_regBlock _ _ hj, fun b hb => ?kept, rfl, exec_sameBut e⟩
    case kept =>
      refine State.storeAtI_read_of_not_mem e ?_
      rw [MachineState.regBlock_length]
      omega

/-! ## LOAD_REGS -/

/-- A block that lies inside memory is loaded from I (rule R145). -/
theorem exec_loadRegs_of_inside {x : Reg} {s : State} (h : s.S.dataAddr + x.val ≤ 0xFFF) :
    exec (.loadRegs x) s =
      .next { s with S := (s.S.setRegBlock (Memory.readBytes s.S.mem s.S.dataAddr (x.val + 1))).advance } := by
  show execLoadRegs x s = _
  rw [execLoadRegs, memRead_of_inside s.S.mem (.inr (by omega))]
  rfl

/-- A block that leaves memory faults (rule R145, decision D21). -/
theorem exec_loadRegs_of_outside {x : Reg} {s : State} (h : 0xFFF < s.S.dataAddr + x.val) :
    exec (.loadRegs x) s = .fault (.boundsError .mem (if 0xFFF < s.S.dataAddr then s.S.I else 0x1000)) := by
  show execLoadRegs x s = _
  rw [execLoadRegs, memRead_of_outside s.S.mem (Nat.succ_ne_zero _) (by omega), MachineState.ofNat_lowestInvalid_dataAddr]

/-- Register Vj after a block is loaded: byte j up to Vx, its old value above (rule R145). -/
theorem MachineState.setRegBlock_readBytes_readV (m : MachineState) (mem : Memory) (a : Nat) (x j : Reg) :
    (m.setRegBlock (Memory.readBytes mem a (x.val + 1))).readV j =
      if j ≤ x then Memory.read mem (a + j.val) else m.readV j := by
  rw [setRegBlock_readV, Memory.readBytes_length]
  by_cases hj : j ≤ x
  · have hlt : j.val < x.val + 1 := Nat.lt_succ_of_le hj
    rw [if_pos hj, if_pos hlt, Memory.readBytes_getD _ _ _ _ hlt]
  · have hnlt : ¬ j.val < x.val + 1 := fun hlt => hj (Nat.le_of_lt_succ hlt)
    rw [if_neg hj, if_neg hnlt]

/-- Settles O49: the next state is explicit, and each register reads as after a block load. -/
theorem loadRegsLoadsBlock : Obligations.LoadRegsLoadsBlock := by
  intro x
  refine ⟨decode_encXkk_loadRegs x, fun s => ⟨fun hin => ?loaded, exec_loadRegs_of_outside⟩⟩
  case loaded =>
    have e := exec_loadRegs_of_inside hin
    exact ⟨_, e, s.S.setRegBlock_readBytes_readV _ _ x, rfl, exec_sameBut e⟩

end Sys2Proof.Machine
end

section
/-!
PROOFS. The frame-buffer instructions (spec/44_display.md): CLS (rule R150).
-/

namespace Sys2Proof.Machine

/-- CLS always completes, whatever the picture was: the cleared picture with `draw_flag` set, then the advance of pc (rule R150). -/
theorem exec_cls (s : State) :
    exec .cls s = .next { s with S := (s.S.setFb FrameBuffer.clear).advance } := rfl

/-- Settles O50: the next state of CLS is explicit, its picture is the cleared one, and the frame is that of every instruction. -/
theorem clsClearsFrame : Obligations.ClsClearsFrame := by
  refine ⟨rfl, fun s => ⟨_, exec_cls s, ?unset, rfl, rfl, exec_sameBut (exec_cls s)⟩⟩
  case unset =>
    intro r c
    rw [MachineState.advance_fb, MachineState.setFb_fb, FrameBuffer.get_clear]

end Sys2Proof.Machine
end

section
/-!
PROOFS. The Cycle Driver (spec/47_cycle_driver.md): that exec looks at nothing of the engine around S (rule R174), which commands
reach wait_reg (rule R175), advance_cpu while a key is awaited (rule R172), and key_release (rule R179).
-/

namespace Sys2Proof.Machine

variable {s t : State}

/-! ## What exec does not look at -/

@[simp] theorem State.disguise_S (s : State) (dc : Byte) (h : List MachineState) (f : Option Fault) (inb : List Command)
    (resp : Option Response) : (s.disguise dc h f inb resp).S = s.S.setDC dc := rfl

@[simp] theorem MachineState.setDC_dataAddr (m : MachineState) (dc : Byte) : (m.setDC dc).dataAddr = m.dataAddr := rfl

/-- Pushing neither reads nor writes DC (rule R102). -/
theorem MachineState.push_setDC (m : MachineState) (dc : Byte) (a : Word) :
    (m.setDC dc).push a = (m.push a).map (MachineState.setDC · dc) := by
  unfold push
  rw [apply_dite (Except.map (MachineState.setDC · dc))]
  rfl

/-- Popping neither reads nor writes DC (rule R103). -/
theorem MachineState.pop_setDC (m : MachineState) (dc : Byte) :
    (m.setDC dc).pop = m.pop.map (Prod.map (MachineState.setDC · dc) id) := by
  unfold pop
  rw [apply_dite (Except.map (Prod.map (MachineState.setDC · dc) id))]
  rfl

/-- A meaning of an instruction that neither reads nor writes DC, the history, the fault latch, the inbox and the answer (rule
R174). -/
def IgnoresEngineFields (meaning : State → Result) : Prop :=
  ∀ (s : State) (dc : Byte) (h : List MachineState) (f : Option Fault) (inb : List Command) (resp : Option Response),
    meaning (s.disguise dc h f inb resp) = mapNext (State.disguise dc h f inb resp) (meaning s)

theorem execCall_ignoresEngineFields (nnn : Addr) : IgnoresEngineFields (execCall nnn) := by
  intro s dc h f inb resp
  simp only [execCall, State.disguise_S, MachineState.setDC_pc, MachineState.push_setDC]
  cases s.S.push (s.S.pc + 2) <;> rfl

theorem execRet_ignoresEngineFields : IgnoresEngineFields execRet := by
  intro s dc h f inb resp
  simp only [execRet, State.disguise_S, MachineState.pop_setDC]
  cases s.S.pop <;> rfl

theorem execSkp_ignoresEngineFields (x : Reg) : IgnoresEngineFields (execSkp x) := by
  intro s dc h f inb resp
  simp only [execSkp, State.disguise_S, MachineState.setDC_readV]
  cases keyOperand (s.S.readV x) <;> rfl

theorem execSknp_ignoresEngineFields (x : Reg) : IgnoresEngineFields (execSknp x) := by
  intro s dc h f inb resp
  simp only [execSknp, State.disguise_S, MachineState.setDC_readV]
  cases keyOperand (s.S.readV x) <;> rfl

theorem execDrw_ignoresEngineFields (x y : Reg) (n : Nat) : IgnoresEngineFields (execDrw x y n) := by
  intro s dc h f inb resp
  simp only [execDrw, State.disguise_S, MachineState.setDC_mem, MachineState.setDC_dataAddr]
  cases memRead s.S.mem s.S.dataAddr n <;> rfl

theorem execLoadRegs_ignoresEngineFields (x : Reg) : IgnoresEngineFields (execLoadRegs x) := by
  intro s dc h f inb resp
  simp only [execLoadRegs, State.disguise_S, MachineState.setDC_mem, MachineState.setDC_dataAddr]
  cases memRead s.S.mem s.S.dataAddr (x.val + 1) <;> rfl

theorem State.storeAtI_ignoresEngineFields (bs : List Byte) : IgnoresEngineFields (State.storeAtI · bs) := by
  intro s dc h f inb resp
  simp only [storeAtI, disguise_S, MachineState.setDC_mem, MachineState.setDC_dataAddr]
  cases memWrite s.S.mem s.S.dataAddr bs <;> rfl

/-- Settles O32: the instructions that may fault branch on the stack, a key operand or an extent of memory, none of which depends on
what is replaced; every other one is an update of S whose value does not. -/
theorem execIgnoresEngineFields : Obligations.ExecIgnoresEngineFields := by
  intro i
  show IgnoresEngineFields (exec i)
  cases i with
  | call nnn => exact execCall_ignoresEngineFields nnn
  | ret => exact execRet_ignoresEngineFields
  | skp x => exact execSkp_ignoresEngineFields x
  | sknp x => exact execSknp_ignoresEngineFields x
  | drw x y n => exact execDrw_ignoresEngineFields x y n
  | loadRegs x => exact execLoadRegs_ignoresEngineFields x
  | bcd x => exact fun s => State.storeAtI_ignoresEngineFields (bcdDigits (s.S.readV x)) s
  | storeRegs x => exact fun s => State.storeAtI_ignoresEngineFields (s.S.regBlock x) s
  | _ => exact fun _ _ _ _ _ _ => rfl

/-! ## Which commands reach wait_reg -/

/-- Everything a command that a faulted engine refuses can do (rule R184). -/
theorem State.unlessFaulted_cases (s : State) (g : State → State) :
    (s.fault ≠ none ∧ s.unlessFaulted g = s.answer .refused) ∨ (s.fault = none ∧ s.unlessFaulted g = g s) := by
  unfold unlessFaulted
  cases hf : s.fault <;> simp

/-- An unfaulted engine refuses nothing (rule R184). -/
theorem State.unlessFaulted_of_unfaulted (g : State → State) (hf : s.fault = none) : s.unlessFaulted g = g s := by
  obtain ⟨hf', -⟩ | ⟨-, e⟩ := s.unlessFaulted_cases g
  · exact absurd hf hf'
  · exact e

/-- A command that keeps wait_reg when it is performed keeps it when it is refused. -/
theorem State.unlessFaulted_waitReg {g : State → State} (hg : (g s).S.waitReg = s.S.waitReg) :
    (s.unlessFaulted g).S.waitReg = s.S.waitReg := by
  obtain ⟨-, e⟩ | ⟨-, e⟩ := s.unlessFaulted_cases g <;> rw [e]
  · rfl
  · exact hg

@[simp] theorem timerTick_waitReg (m : MachineState) : (timerTick m).waitReg = m.waitReg := by
  dsimp only [timerTick, timerTickWith]
  generalize (if m.DC = 0 then Config.timerDivider else m.DC.toNat) - 1 = c
  split <;> rfl

@[simp] theorem releaseKey_waitReg (k : Reg) (m : MachineState) : (releaseKey k m).waitReg = m.waitReg := rfl

/-- A key press leaves no wait (rule R178). -/
@[simp] theorem pressKey_waitReg (k : Reg) (m : MachineState) : (pressKey k m).waitReg = none := by
  unfold pressKey MachineState.endWait
  split
  · rfl
  · assumption

@[simp] theorem State.loadProgram_waitReg (s : State) (bytes : List Byte) :
    (s.loadProgram bytes).S.waitReg = s.S.waitReg := by
  unfold loadProgram
  split <;> rfl

@[simp] theorem State.currentFrame_waitReg (s : State) : s.currentFrame.S.waitReg = s.S.waitReg := by
  unfold currentFrame
  split
  · cases s.fault <;> rfl
  · rfl

/-- A key press that changes wait_reg ends a wait (rules R178, R184). -/
theorem waitReg_of_keyPress {k : Reg} (h : s.perform (.keyPress k) = .next t) (hw : t.S.waitReg ≠ s.S.waitReg) :
    ∃ r, s.S.waitReg = some r ∧ t.S.waitReg = none := by
  obtain rfl := Host.Outcome.next.inj h
  obtain ⟨-, e⟩ | ⟨-, e⟩ := s.unlessFaulted_cases (State.modifyS · (pressKey k)) <;> rw [e] at hw ⊢
  · exact absurd rfl hw
  · rw [State.modifyS_S, pressKey_waitReg] at hw ⊢
    obtain ⟨r, hr⟩ := Option.ne_none_iff_exists'.1 hw.symm
    exact ⟨r, hr, rfl⟩

/-- The only instruction that writes wait_reg is WAIT_KEY, which notes its register (rules R51, R161). -/
theorem exec_waitReg {i : Instr} (h : exec i s = .next t) :
    (∃ x, i = .waitKey x ∧ t.S.waitReg = some x) ∨ t.S.waitReg = s.S.waitReg := by
  cases i with
  | waitKey x =>
    obtain rfl := State.next_of_install h
    exact .inl ⟨x, rfl, rfl⟩
  | _ => exact .inr (exec_sameBut h .waitReg (by simp [writtenFields]))

/-- An instruction fetched and decoded is the one its two bytes at pc, high byte first, decode to (rule R66). -/
theorem decode_of_fetchDecode {m : MachineState} {i : Instr} (h : fetchDecode m = .ok i) :
    decode (Memory.read m.mem m.pc.toNat ++ Memory.read m.mem (m.pc.toNat + 1)) = .ok i := by
  obtain ⟨-, e⟩ | ⟨-, ⟨_, -, e⟩ | ⟨j, hj, e⟩⟩ := fetchDecode_cases m <;> rw [e] at h
  · cases h
  · cases h
  · obtain rfl := Except.ok.inj h
    exact hj

/-- An advance_cpu that changes wait_reg has executed WAIT_KEY from Running (rules R171 to R173, R184). -/
theorem waitReg_of_advanceCpu (h : s.advanceCpu = .next t) (hw : t.S.waitReg ≠ s.S.waitReg) :
    s.S.waitReg = none ∧
      ∃ x, decode (Memory.read s.S.mem s.S.pc.toNat ++ Memory.read s.S.mem (s.S.pc.toNat + 1)) = .ok (.waitKey x) ∧
        t.S.waitReg = some x := by
  obtain ⟨-, e⟩ | ⟨-, -, e⟩ | ⟨-, -, f, -, e⟩ | ⟨-, hrun, i, hi, e⟩ := s.advanceCpu_cases <;> rw [e] at h
  case inr.inr.inr =>
    obtain ⟨u, hu, rfl⟩ | ⟨f, -, rfl⟩ := State.conclude_next _ _ _ h
    · obtain ⟨x, rfl, hx⟩ | hsame := exec_waitReg hu
      · exact ⟨hrun, x, decode_of_fetchDecode hi, hx⟩
      · exact absurd hsame hw
    · exact absurd rfl hw
  all_goals
    obtain rfl := Host.Outcome.next.inj h
    exact absurd rfl hw

/-- Settles O15: advance_cpu and key_press by what a change of wait_reg says of them, rewind and reset as they stand; every other
command keeps wait_reg. -/
theorem waitChangesOnlyByListedEvents : Obligations.WaitChangesOnlyByListedEvents := by
  intro s t c h hw
  cases c with
  | advanceCpu => exact .inl ⟨rfl, waitReg_of_advanceCpu h hw⟩
  | keyPress k =>
    obtain ⟨r, hr⟩ := waitReg_of_keyPress h hw
    exact .inr (.inl ⟨k, r, rfl, hr⟩)
  | rewind => exact .inr (.inr (.inl rfl))
  | reset => exact .inr (.inr (.inr rfl))
  | loadProgram bytes =>
    obtain rfl := Host.Outcome.next.inj h
    exact (hw (State.unlessFaulted_waitReg (State.loadProgram_waitReg s bytes))).elim
  | advanceTimers =>
    obtain rfl := Host.Outcome.next.inj h
    exact (hw (State.unlessFaulted_waitReg (timerTick_waitReg s.S))).elim
  | keyRelease k =>
    obtain rfl := Host.Outcome.next.inj h
    exact (hw (State.unlessFaulted_waitReg (releaseKey_waitReg k s.S))).elim
  | currentFrame =>
    obtain rfl := Host.Outcome.next.inj h
    exact (hw (State.currentFrame_waitReg s)).elim

/-! ## advance_cpu while a key is awaited -/

/-- Below capacity, recording appends (rule R192). -/
theorem record_of_length_ne {h : List MachineState} (m : MachineState) (hlen : h.length ≠ Config.historyCapacity) :
    record h m = h ++ [m.zeroKeys] :=
  congrArg (· ++ [m.zeroKeys]) (if_neg hlen)

/-- At capacity, recording evicts the oldest entry and appends (rule R192). -/
theorem record_of_length_eq {h : List MachineState} (m : MachineState) (hlen : h.length = Config.historyCapacity) :
    record h m = h.tail ++ [m.zeroKeys] :=
  congrArg (· ++ [m.zeroKeys]) (if_pos hlen)

/-- advance_cpu of an unfaulted engine awaiting a key only archives and answers (rule R172). -/
theorem State.advanceCpu_of_waiting {r : Reg} (hf : s.fault = none) (hw : s.S.waitReg = some r) :
    s.advanceCpu = .next ((s.archive s.S).answer .ok) := by
  obtain ⟨hf', -⟩ | ⟨-, -, e⟩ | ⟨-, hrun, -⟩ | ⟨-, hrun, -⟩ := s.advanceCpu_cases
  · exact absurd hf hf'
  · exact e
  all_goals
    rw [hw] at hrun
    cases hrun

/-- Settles O8: the waiting branch of advance_cpu archives S, and the length of the history decides what recording evicts. -/
theorem awaitingKeyArchivesUnchangedState : Obligations.AwaitingKeyArchivesUnchangedState :=
  fun s _ hf hw =>
    ⟨_, State.advanceCpu_of_waiting hf hw, rfl, rfl, hf, record_of_length_ne s.S, record_of_length_eq s.S, rfl, rfl⟩

/-! ## key_release -/

theorem sameBut_setKey (s : State) (k : Reg) (b : Bool) : sameBut [.keys] s { s with S := s.S.setKey k b } := by
  simp [sameBut, Field.forall, Field.same]

theorem sameBut_answer (s : State) (r : Response) : sameBut [.response] s (s.answer r) := by
  simp [sameBut, Field.forall, Field.same]

/-- Settles O23: an unfaulted engine answers and clears the key, and reading the keys after that is the law of one key written. -/
theorem keyReleaseClearsKey : Obligations.KeyReleaseClearsKey := by
  intro s k hf
  have e : s.perform (.keyRelease k) = .next (s.modifyS (releaseKey k)) :=
    congrArg Host.Outcome.next (State.unlessFaulted_of_unfaulted _ hf)
  exact ⟨_, e, s.S.setKey_keyHeld k false, rfl, (sameBut_answer s .ok).trans (sameBut_setKey (s.answer .ok) k false)⟩

end Sys2Proof.Machine
end

section
/-!
PROOFS. The History Buffer (spec/48_history_rewind.md): what record keeps (rules R191, R192, R196), what rewind installs (rules R193,
R194), and which commands move the history (rule R185).
-/

namespace Sys2Proof.Machine

variable {s t : State}

/-! ## record -/

/-- Recording within capacity, full or not, appends and keeps what fits of the newest entries (rule R192). -/
theorem record_eq_drop {h : List MachineState} (m : MachineState) (hcap : h.length ≤ Config.historyCapacity) :
    record h m = (h ++ [m.zeroKeys]).drop (h.length + 1 - Config.historyCapacity) := by
  by_cases hlen : h.length = Config.historyCapacity
  · have hne : h ≠ [] := List.length_pos_iff.1 (hlen ▸ Nat.succ_pos _)
    rw [record_of_length_eq m hlen, hlen, Nat.add_sub_cancel_left, List.drop_one, List.tail_append_of_ne_nil hne]
  · rw [record_of_length_ne m hlen, Nat.sub_eq_zero_of_le (by omega), List.drop_zero]

/-- Recording within capacity adds one entry, up to the capacity (rule R192). -/
theorem length_record {h : List MachineState} (m : MachineState) (hcap : h.length ≤ Config.historyCapacity) :
    (record h m).length = min (h.length + 1) Config.historyCapacity := by
  rw [record_eq_drop m hcap, List.length_drop, List.length_append, List.length_singleton]
  omega

/-- Settles O16: the two branches of record, the length of what it keeps, and the read laws of `zeroKeys`. -/
theorem recordEvictsAndZeroesKeys : Obligations.RecordEvictsAndZeroesKeys := by
  intro h m
  refine ⟨record_of_length_ne m, fun hfull => ?evicted, length_record m, m.zeroKeys_keyHeld, ?kept⟩
  case evicted => rw [record_of_length_eq m hfull, List.drop_one]
  case kept => exact ⟨rfl, rfl, rfl, rfl, rfl, rfl, rfl, rfl, rfl, rfl, rfl, rfl⟩

/-- Settles O18, by induction on the recorded states: dropping what does not fit after each recording is dropping it all at the end. -/
theorem historyKeepsMostRecent : Obligations.HistoryKeepsMostRecent := by
  intro h ms hcap
  induction ms generalizing h with
  | nil => simp [Nat.sub_eq_zero_of_le hcap]
  | cons m ms ih =>
    have hlen := length_record m hcap
    have hfits : h.length + 1 - Config.historyCapacity ≤ (h ++ [m.zeroKeys]).length := by
      rw [List.length_append, List.length_singleton]
      omega
    rw [List.foldl_cons, ih (record h m) (by omega), hlen, record_eq_drop m hcap,
      ← List.drop_append_of_le_length hfits, List.drop_drop, List.append_assoc, List.singleton_append, List.map_cons,
      List.length_cons]
    congr 1
    omega

/-! ## rewind -/

/-- An unfaulted engine performs the rewind (rule R184). -/
theorem State.perform_rewind_of_unfaulted (hf : s.fault = none) : s.perform .rewind = .next s.rewind :=
  congrArg Host.Outcome.next (State.unlessFaulted_of_unfaulted _ hf)

/-- With nothing archived, rewind only answers (rule R194). -/
theorem State.rewind_of_history_nil (h : s.history = []) : s.rewind = s.answer .ok := by
  obtain ⟨-, e⟩ | ⟨hs, m, hcons, -⟩ := s.rewind_cases
  · exact e
  · exact absurd (hcons.symm.trans h) (List.append_ne_nil_of_right_ne_nil hs (List.cons_ne_nil m []))

/-- With something archived, rewind takes the newest entry off the history and installs it (rule R193). -/
theorem State.rewind_of_history_concat {hs : List MachineState} {m : MachineState} (h : s.history = hs ++ [m]) :
    s.rewind = State.answer { s with S := m, history := hs } .ok := by
  obtain ⟨hnil, -⟩ | ⟨hs', m', hcons, e⟩ := s.rewind_cases
  · exact absurd (h.symm.trans hnil) (List.append_ne_nil_of_right_ne_nil hs (List.cons_ne_nil m []))
  · obtain ⟨rfl, rfl⟩ := List.append_singleton_inj.1 (hcons.symm.trans h)
    exact e

/-- An archived state of a sound engine holds no key (rules R50, R191). -/
theorem State.sound.keyHeld_of_mem_history (h : s.sound) {m : MachineState} (hm : m ∈ s.history) (k : Reg) :
    m.keyHeld k = false := by
  obtain ⟨-, -, harch⟩ := h
  exact (harch m hm).2 k

/-- Settles O17: the two cases of rewind; the state it installs was archived, so in a sound engine it holds no key. -/
theorem rewindInstallsNewestArchive : Obligations.RewindInstallsNewestArchive := by
  intro s hf
  rw [State.perform_rewind_of_unfaulted hf]
  refine ⟨fun hnil => ?empty, fun h m hcons => ⟨?installed, fun hs => hs.keyHeld_of_mem_history ?archived⟩⟩
  case empty => exact congrArg Host.Outcome.next (State.rewind_of_history_nil hnil)
  case installed => exact congrArg Host.Outcome.next (State.rewind_of_history_concat hcons)
  case archived => exact hcons ▸ List.mem_append_right h (List.mem_singleton_self m)

/-! ## Which commands move the history -/

/-- A command that keeps the history when it is performed keeps it when it is refused. -/
theorem State.unlessFaulted_history {g : State → State} (hg : (g s).history = s.history) :
    (s.unlessFaulted g).history = s.history := by
  obtain ⟨-, e⟩ | ⟨-, e⟩ := s.unlessFaulted_cases g <;> rw [e]
  · rfl
  · exact hg

@[simp] theorem State.loadProgram_history (s : State) (bytes : List Byte) :
    (s.loadProgram bytes).history = s.history := by
  unfold loadProgram
  split <;> rfl

@[simp] theorem State.currentFrame_history (s : State) : s.currentFrame.history = s.history := by
  unfold currentFrame
  split
  · cases s.fault <;> rfl
  · rfl

/-- Rewind drops the newest entry, if there is one (rules R193, R194). -/
@[simp] theorem State.rewind_history (s : State) : s.rewind.history = s.history.dropLast := by
  obtain ⟨h, e⟩ | ⟨hs, m, h, e⟩ := s.rewind_cases <;> rw [e, h]
  · exact h
  · exact List.dropLast_concat.symm

/-- Every command but advance_cpu, rewind and reset keeps the history (rule R185). -/
theorem history_of_perform {c : Command} (h : s.perform c = .next t) (hcpu : c ≠ .advanceCpu) (hrew : c ≠ .rewind)
    (hres : c ≠ .reset) : t.history = s.history := by
  cases c with
  | advanceCpu => exact absurd rfl hcpu
  | rewind => exact absurd rfl hrew
  | reset => exact absurd rfl hres
  | loadProgram bytes =>
    obtain rfl := Host.Outcome.next.inj h
    exact State.unlessFaulted_history (State.loadProgram_history s bytes)
  | advanceTimers | keyPress | keyRelease =>
    obtain rfl := Host.Outcome.next.inj h
    exact State.unlessFaulted_history (State.modifyS_history s _)
  | currentFrame =>
    obtain rfl := Host.Outcome.next.inj h
    exact State.currentFrame_history s

/-- A rewind drops the newest entry, unless it is refused (rules R184, R193, R194). -/
theorem history_of_perform_rewind (h : s.perform .rewind = .next t) :
    t.history = if s.fault = none then s.history.dropLast else s.history := by
  obtain rfl := Host.Outcome.next.inj h
  obtain ⟨hf, e⟩ | ⟨hf, e⟩ := s.unlessFaulted_cases State.rewind <;> rw [e]
  · rw [if_neg hf, State.answer_history]
  · rw [if_pos hf, State.rewind_history]

/-- No instruction writes the history (rules R51, R174). -/
theorem exec_history {i : Instr} (h : exec i s = .next t) : t.history = s.history :=
  exec_sameBut h .history (by cases i <;> simp [writtenFields])

/-- An advance_cpu answers Ok and archives the old S, or answers something else and moves neither S nor the history (rules R171 to
R173, R184). -/
theorem history_of_advanceCpu (h : s.advanceCpu = .next t) :
    (t.response = some .ok ∧ t.history = record s.history s.S) ∨
    (t.response ≠ some .ok ∧ t.history = s.history ∧ t.S = s.S) := by
  obtain ⟨-, e⟩ | ⟨-, -, e⟩ | ⟨-, -, f, -, e⟩ | ⟨-, -, i, -, e⟩ := s.advanceCpu_cases <;> rw [e] at h
  case inr.inr.inr =>
    obtain ⟨u, hu, rfl⟩ | ⟨f, -, rfl⟩ := State.conclude_next _ _ _ h
    · exact .inl ⟨rfl, congrArg (record · s.S) (exec_history hu)⟩
    · exact .inr ⟨by simp, rfl, rfl⟩
  all_goals obtain rfl := Host.Outcome.next.inj h
  · exact .inr ⟨by simp, rfl, rfl⟩
  · exact .inl ⟨rfl, rfl⟩
  · exact .inr ⟨by simp, rfl, rfl⟩

/-- Settles O13: advance_cpu by the two ways it can end, rewind by its own law, reset by what it installs; every other command keeps
the history. -/
theorem onlyAdvanceCpuArchives : Obligations.OnlyAdvanceCpuArchives := by
  intro s t c h
  refine ⟨history_of_perform h, ?rewound, ?emptied, ?archived, ?kept⟩
  case rewound =>
    rintro rfl
    exact history_of_perform_rewind h
  case emptied =>
    rintro rfl
    obtain rfl := Host.Outcome.next.inj h
    exact s.resetEngine_history
  case archived =>
    rintro rfl hok
    obtain ⟨-, hrec⟩ | ⟨hne, -⟩ := history_of_advanceCpu h
    · exact hrec
    · exact absurd hok hne
  case kept =>
    rintro rfl hne
    obtain ⟨hok, -⟩ | ⟨-, hsame⟩ := history_of_advanceCpu h
    · exact absurd hok hne
    · exact hsame

end Sys2Proof.Machine
end

section
/-!
PROOFS. Exceptions (spec/60_exceptions.md): the fault an advance_cpu of a Running engine meets first is the one it takes (rules R173,
R205, R206). What fetch and decode answer is decided by pc and by the two bytes there.
-/

namespace Sys2Proof.Machine

variable {s : State} {m : MachineState}

/-! ## Fetch and decode -/

/-- A pc above 0xFFE stops the fetch, whatever the bytes there are (rules R64, R206). -/
theorem fetchDecode_of_outside (h : 0xFFE < m.pc.toNat) :
    fetchDecode m = .error (.boundsError .mem (BitVec.ofNat 16 (lowestInvalid m.pc.toNat))) := by
  obtain ⟨-, e⟩ | ⟨hin, -⟩ := fetchDecode_cases m
  · exact e
  · exact absurd h (Nat.not_lt.2 hin)

/-- At a pc the fetch can read, the two bytes there decide: their instruction, or the fault of an illegal word (rules R202, R206). -/
theorem fetchDecode_of_inside {op : Word} (h : m.pc.toNat ≤ 0xFFE)
    (hop : Memory.read m.mem m.pc.toNat ++ Memory.read m.mem (m.pc.toNat + 1) = op) :
    fetchDecode m = (decode op).mapError fun _ => .decodeError op m.pc := by
  subst hop
  obtain ⟨hout, -⟩ | ⟨-, ⟨e, hd, hfd⟩ | ⟨i, hd, hfd⟩⟩ := fetchDecode_cases m
  · exact absurd hout (Nat.not_lt.2 h)
  all_goals
    rw [hfd, hd]
    rfl

/-! ## advance_cpu of a Running engine -/

/-- A fault of fetch or decode is latched and answered, and nothing is executed (rules R173, R206). -/
theorem State.advanceCpu_of_fetchDecode_error {f : Fault} (hf : s.fault = none) (hw : s.S.waitReg = none)
    (h : fetchDecode s.S = .error f) : s.advanceCpu = .next (s.takeFault f) := by
  obtain ⟨hf', -⟩ | ⟨-, hw', -⟩ | ⟨-, -, f', h', e⟩ | ⟨-, -, i, h', -⟩ := s.advanceCpu_cases
  · exact absurd hf hf'
  · exact absurd hw hw'
  · rw [e, Except.error.inj (h.symm.trans h')]
  · cases h.symm.trans h'

/-- The instruction fetched and decoded is executed, and the driver concludes its outcome (rules R171, R173). -/
theorem State.advanceCpu_of_fetchDecode_ok {i : Instr} (hf : s.fault = none) (hw : s.S.waitReg = none)
    (h : fetchDecode s.S = .ok i) : s.advanceCpu = s.conclude (exec i s) := by
  obtain ⟨hf', -⟩ | ⟨-, hw', -⟩ | ⟨-, -, f, h', -⟩ | ⟨-, -, i', h', e⟩ := s.advanceCpu_cases
  · exact absurd hf hf'
  · exact absurd hw hw'
  · cases h.symm.trans h'
  · rw [e, Except.ok.inj (h.symm.trans h')]

/-- Settles O9: pc decides whether the fetch faults and at which address, then the word there whether decode does; only a fault of the
instruction itself comes from exec, and the driver takes each of them alike. -/
theorem advanceCpuTakesFirstFault : Obligations.AdvanceCpuTakesFirstFault := by
  intro s hf hw
  refine ⟨fun hpc => ?straddles, fun hpc => ?beyond, fun hpc e hd => ?illegal, fun hpc i f hd hx => ?own⟩
  case straddles =>
    refine State.advanceCpu_of_fetchDecode_error hf hw ?_
    rw [fetchDecode_of_outside (by rw [hpc]; decide), hpc]
    rfl
  case beyond =>
    have haddr : BitVec.ofNat 16 (lowestInvalid s.S.pc.toNat) = s.S.pc := by
      rw [lowestInvalid, if_pos (Nat.lt_of_succ_le hpc), BitVec.ofNat_toNat, BitVec.setWidth_eq]
    refine State.advanceCpu_of_fetchDecode_error hf hw ?_
    rw [fetchDecode_of_outside (by omega), haddr]
  case illegal =>
    refine State.advanceCpu_of_fetchDecode_error hf hw ?_
    rw [fetchDecode_of_inside hpc rfl, hd]
    rfl
  case own =>
    have hi : fetchDecode s.S = .ok i := by
      rw [fetchDecode_of_inside hpc rfl, hd]
      rfl
    show s.advanceCpu = _
    rw [State.advanceCpu_of_fetchDecode_ok hf hw hi, hx]
    rfl

end Sys2Proof.Machine
end

section
/-!
PROOFS. The encoding (spec/30_encoding.md): the decoder undoes the encoder (rules R81, R83, R84), every word is either the word of the
instruction it decodes to or in one of the illegal groups (rules R90, R91), and the opcode table selects what decodes (rule R84).
-/

namespace Sys2Proof

/-! ## Decoding an encoded instruction -/

/-- The decoder undoes the encoder: the key of the format decides the group, and its other fields read back (rules R81 to R84). -/
theorem decode_encode {i : Instr} (h : i.wellFormed = true) : decode (encode i) = .ok i := by
  cases i with
  | cls | ret => rfl
  | jp | call | ldAddr | jpOffset => simp [encode, decode]
  | se | sne | ldImm | addImm | rnd => simp [encode, decode]
  | skp | sknp => simp [encode, decode]
  | seReg | sneReg => simp [encode, decode]
  | ldReg | or | and | xor | addReg | sub | shr | subn | shl => simp [encode, decode, decode8]
  | ldVxDt | waitKey | ldDtVx | ldStVx | addIVx | ldFont | bcd | storeRegs | loadRegs => simp [encode, decode, decodeF]
  | drw x y n =>
    have hn : n < 16 := of_decide_eq_true h
    simp [encode, decode, Nat.mod_eq_of_lt hn]

/-- Settles O2: the law of the decoder on the words of the encoder. -/
theorem decodeEncodeRoundTrip : Obligations.DecodeEncodeRoundTrip :=
  fun _ h => decode_encode h

/-! ## Everything decode can answer -/

section
variable {op : Word} {key : BitVec 4}

/-- A word of format NNN, from its key (rule R82). -/
theorem encNnn_of_key (h : opKey op = key) : encNnn key (opNnn op) = op :=
  h ▸ encNnn_fields op

/-- A word of format XKK, from its key (rule R82). -/
theorem encXkk_of_key (h : opKey op = key) : encXkk key (opX op) (opKk op) = op :=
  h ▸ encXkk_fields op

/-- A word of format XFN, from its key and low byte (rule R82). -/
theorem encXkk_of_key_kk {kk : Byte} (h : opKey op = key) (hkk : opKk op = kk) : encXkk key (opX op) kk = op :=
  hkk ▸ encXkk_of_key h

/-- A word of format XYN, from its key and last nibble (rule R82). -/
theorem encXyn_of_key_n {n : BitVec 4} (h : opKey op = key) (hn : opN op = n) : encXyn key (opX op) (opY op) n = op :=
  h ▸ hn ▸ encXyn_fields op

end

/-- The words of a group of rule R90, by their fields. -/
def Illegal.covers (op : Word) : Illegal → Prop
  | .group0 => opKey op = 0x0 ∧ op ≠ 0x00E0 ∧ op ≠ 0x00EE
  | .group5 => opKey op = 0x5 ∧ opN op ≠ 0x0
  | .group8 => opKey op = 0x8 ∧ opN op ∉ [0x0, 0x1, 0x2, 0x3, 0x4, 0x5, 0x6, 0x7, 0xE]
  | .group9 => opKey op = 0x9 ∧ opN op ≠ 0x0
  | .groupE => opKey op = 0xE ∧ opKk op ∉ [0x9E, 0xA1]
  | .groupF => opKey op = 0xF ∧ opKk op ∉ [0x07, 0x0A, 0x15, 0x18, 0x1E, 0x29, 0x33, 0x55, 0x65]
  | .truncated => False

/-- What an answer of the decoder says of the word: it is the word of the well-formed instruction answered, or in the group named. -/
def Explains (op : Word) : Except Illegal Instr → Prop
  | .ok i => i.wellFormed = true ∧ encode i = op
  | .error e => e.covers op

/-- A branch of the dispatch is explained when each of its sides is. -/
theorem Explains.ite {op : Word} {c : Prop} [Decidable c] {a b : Except Illegal Instr} (ha : c → Explains op a)
    (hb : ¬ c → Explains op b) : Explains op (if c then a else b) := by
  split
  · exact ha ‹_›
  · exact hb ‹_›

/-- The 8xyN group (rules R87, R90). -/
theorem decode8_explains {op : Word} (h : opKey op = 0x8) : Explains op (decode8 op) := by
  unfold decode8
  iterate 9 refine .ite (fun hn => ⟨rfl, encXyn_of_key_n h hn⟩) fun _ => ?_
  exact ⟨h, by simp [*]⟩

/-- The FxKK group (rules R87, R90). -/
theorem decodeF_explains {op : Word} (h : opKey op = 0xF) : Explains op (decodeF op) := by
  unfold decodeF
  iterate 9 refine .ite (fun hkk => ⟨rfl, encXkk_of_key_kk h hkk⟩) fun _ => ?_
  exact ⟨h, by simp [*]⟩

/-- Everything decode can answer: the instruction whose word it was given, or the group of illegal words it is in (rules R87, R90,
R91). -/
theorem decode_explains (op : Word) : Explains op (decode op) := by
  unfold decode
  refine .ite (fun h => .ite (fun e => ⟨rfl, e.symm⟩) fun ne => .ite (fun e => ⟨rfl, e.symm⟩) fun ne' => ⟨h, ne, ne'⟩)
    fun _ => ?_
  iterate 2 refine .ite (fun h => ⟨rfl, encNnn_of_key h⟩) fun _ => ?_
  iterate 2 refine .ite (fun h => ⟨rfl, encXkk_of_key h⟩) fun _ => ?_
  refine .ite (fun h => .ite (fun hn => ⟨rfl, encXyn_of_key_n h hn⟩) fun hn => ⟨h, hn⟩) fun _ => ?_
  iterate 2 refine .ite (fun h => ⟨rfl, encXkk_of_key h⟩) fun _ => ?_
  refine .ite decode8_explains fun _ => ?_
  refine .ite (fun h => .ite (fun hn => ⟨rfl, encXyn_of_key_n h hn⟩) fun hn => ⟨h, hn⟩) fun _ => ?_
  iterate 2 refine .ite (fun h => ⟨rfl, encNnn_of_key h⟩) fun _ => ?_
  refine .ite (fun h => ⟨rfl, encXkk_of_key h⟩) fun _ => ?_
  refine .ite (fun h => ⟨decide_eq_true (opN op).isLt, encXyn_of_key_n h (BitVec.ofNat_toNat 4 (opN op)).symm⟩) fun _ => ?_
  refine .ite (fun h => ?groupE) fun _ => decodeF_explains (by bv_omega)
  case groupE =>
    iterate 2 refine .ite (fun hkk => ⟨rfl, encXkk_of_key_kk h hkk⟩) fun _ => ?_
    exact ⟨h, by simp [*]⟩

/-- Settles O3: what the decoder's answer says of the word, read for a word that decodes. -/
theorem encodeDecodeRoundTrip : Obligations.EncodeDecodeRoundTrip := by
  intro op i h
  have explained : Explains op (.ok i) := h ▸ decode_explains op
  exact explained

/-! ## The opcode table -/

section
variable {op : Word} {r : OpcodeRow}

/-- A selected row shows the word's key where the row's mask keeps the key. -/
theorem opKey_of_selects (h : r.selects op = true) (hmask : opKey r.mask = 0xF) : opKey op = opKey r.value := by
  have hval : op &&& r.mask = r.value := eq_of_beq h
  rw [← hval]
  unfold opKey at hmask ⊢
  rw [BitVec.extractLsb'_and, hmask]
  exact BitVec.and_allOnes.symm

/-- A selected row shows the word's last nibble where the row's mask keeps it. -/
theorem opN_of_selects (h : r.selects op = true) (hmask : opN r.mask = 0xF) : opN op = opN r.value := by
  have hval : op &&& r.mask = r.value := eq_of_beq h
  rw [← hval]
  unfold opN at hmask ⊢
  rw [BitVec.extractLsb'_and, hmask]
  exact BitVec.and_allOnes.symm

/-- A selected row shows the word's low byte where the row's mask keeps it. -/
theorem opKk_of_selects (h : r.selects op = true) (hmask : opKk r.mask = 0xFF) : opKk op = opKk r.value := by
  have hval : op &&& r.mask = r.value := eq_of_beq h
  rw [← hval]
  unfold opKk at hmask ⊢
  rw [BitVec.extractLsb'_and, hmask]
  exact BitVec.and_allOnes.symm

/-- A row that masks nothing is selected by its value alone. -/
theorem eq_of_selects (h : r.selects op = true) (hmask : r.mask = 0xFFFF) : op = r.value := by
  have hval : op &&& r.mask = r.value := eq_of_beq h
  rw [← hval, hmask]
  exact BitVec.and_allOnes.symm

end

/-- A word that selects the row of some instruction decodes to an instruction of that row: the mask of each format keeps the fields the
dispatch looks at (rules R84, R87). -/
theorem decode_of_selects {op : Word} {i : Instr} (h : i.row.selects op = true) :
    ∃ j, decode op = .ok j ∧ j.row = i.row := by
  cases i with
  | cls | ret =>
    rw [eq_of_selects h rfl]
    exact ⟨_, rfl, rfl⟩
  | jp | call | se | sne | ldImm | addImm | ldAddr | jpOffset | rnd | drw =>
    dsimp only [Instr.row] at h
    have hkey := opKey_of_selects h rfl
    rw [decode, hkey]
    exact ⟨_, rfl, rfl⟩
  | seReg | sneReg =>
    dsimp only [Instr.row] at h
    have hkey := opKey_of_selects h rfl
    have hn := opN_of_selects h rfl
    rw [decode, hkey, hn]
    exact ⟨_, rfl, rfl⟩
  | ldReg | or | and | xor | addReg | sub | shr | subn | shl =>
    dsimp only [Instr.row] at h
    have hkey := opKey_of_selects h rfl
    have hn := opN_of_selects h rfl
    rw [decode, decode8, hkey, hn]
    exact ⟨_, rfl, rfl⟩
  | skp | sknp =>
    dsimp only [Instr.row] at h
    have hkey := opKey_of_selects h rfl
    have hkk := opKk_of_selects h rfl
    rw [decode, hkey, hkk]
    exact ⟨_, rfl, rfl⟩
  | ldVxDt | waitKey | ldDtVx | ldStVx | addIVx | ldFont | bcd | storeRegs | loadRegs =>
    dsimp only [Instr.row] at h
    have hkey := opKey_of_selects h rfl
    have hkk := opKk_of_selects h rfl
    rw [decode, decodeF, hkey, hkk]
    exact ⟨_, rfl, rfl⟩

/-- The word of every instruction selects the instruction's row, one of the 34 (rule R84). -/
theorem encode_selects_row (i : Instr) : Laws.TableRow.Statement i := by
  cases i with
  | cls => exact Laws.TableRow.cls
  | ret => exact Laws.TableRow.ret
  | jp nnn => exact Laws.TableRow.jp nnn
  | call nnn => exact Laws.TableRow.call nnn
  | se x kk => exact Laws.TableRow.se x kk
  | sne x kk => exact Laws.TableRow.sne x kk
  | seReg x y => exact Laws.TableRow.seReg x y
  | ldImm x kk => exact Laws.TableRow.ldImm x kk
  | addImm x kk => exact Laws.TableRow.addImm x kk
  | ldReg x y => exact Laws.TableRow.ldReg x y
  | or x y => exact Laws.TableRow.or x y
  | and x y => exact Laws.TableRow.and x y
  | xor x y => exact Laws.TableRow.xor x y
  | addReg x y => exact Laws.TableRow.addReg x y
  | sub x y => exact Laws.TableRow.sub x y
  | shr x y => exact Laws.TableRow.shr x y
  | subn x y => exact Laws.TableRow.subn x y
  | shl x y => exact Laws.TableRow.shl x y
  | sneReg x y => exact Laws.TableRow.sneReg x y
  | ldAddr nnn => exact Laws.TableRow.ldAddr nnn
  | jpOffset nnn => exact Laws.TableRow.jpOffset nnn
  | rnd x kk => exact Laws.TableRow.rnd x kk
  | drw x y n => exact Laws.TableRow.drw x y n
  | skp x => exact Laws.TableRow.skp x
  | sknp x => exact Laws.TableRow.sknp x
  | ldVxDt x => exact Laws.TableRow.ldVxDt x
  | waitKey x => exact Laws.TableRow.waitKey x
  | ldDtVx x => exact Laws.TableRow.ldDtVx x
  | ldStVx x => exact Laws.TableRow.ldStVx x
  | addIVx x => exact Laws.TableRow.addIVx x
  | ldFont x => exact Laws.TableRow.ldFont x
  | bcd x => exact Laws.TableRow.bcd x
  | storeRegs x => exact Laws.TableRow.storeRegs x
  | loadRegs x => exact Laws.TableRow.loadRegs x

/-- Settles O4: a word that decodes is the word of its instruction, so it selects that row; a word that selects a row of the table
decodes to an instruction of that row, so it selects no second one, and none when it does not decode. -/
theorem decodeFollowsOpcodeTable : Obligations.DecodeFollowsOpcodeTable := by
  have decodes {op : Word} {r : OpcodeRow} (hr : r ∈ opcodeTable) (h : r.selects op = true) :
      ∃ j, decode op = .ok j ∧ j.row = r := by
    obtain ⟨i, -, rfl⟩ := List.mem_map.1 hr
    exact decode_of_selects h
  refine ⟨rfl, fun op i h => ?decoded, fun op e h r hr => ?illegal⟩
  case decoded =>
    obtain ⟨-, rfl⟩ := encodeDecodeRoundTrip op i h
    obtain ⟨hsel, hmem⟩ := encode_selects_row i
    refine ⟨hmem, fun r hr => ⟨fun hrsel => ?unique, fun e => e ▸ hsel⟩⟩
    obtain ⟨j, hj, rfl⟩ := decodes hr hrsel
    rw [Except.ok.inj (hj.symm.trans h)]
  case illegal =>
    refine Bool.eq_false_iff.2 fun hsel => ?_
    obtain ⟨j, hj, -⟩ := decodes hr hsel
    cases h.symm.trans hj

/-! ## The illegal words -/

/-- A word does not decode exactly when it is in the group named (rules R87, R90). -/
theorem decode_eq_error_iff {op : Word} {e : Illegal} : decode op = .error e ↔ e.covers op := by
  refine ⟨fun h => ?explained, fun h => ?dispatched⟩
  case explained =>
    have explained : Explains op (.error e) := h ▸ decode_explains op
    exact explained
  case dispatched =>
    cases e with
    | group0 | group5 | group9 | groupE =>
      obtain ⟨hkey, hrest⟩ := h
      simp_all [decode]
    | group8 =>
      obtain ⟨hkey, hn⟩ := h
      simp_all [decode, decode8]
    | groupF =>
      obtain ⟨hkey, hkk⟩ := h
      simp_all [decode, decodeF]
    | truncated => exact h.elim

theorem opKey_toNat (op : Word) : (opKey op).toNat = op.toNat / 0x1000 := by
  have hop := op.isLt
  rw [opKey, BitVec.extractLsb'_toNat, Nat.shiftRight_eq_div_pow]
  omega

theorem opN_toNat (op : Word) : (opN op).toNat = op.toNat % 16 := rfl

theorem opKk_toNat (op : Word) : (opKk op).toNat = op.toNat % 256 := rfl

/-- A field is one of some values exactly when its number is one of theirs. -/
theorem mem_iff_toNat_mem {w : Nat} (b : BitVec w) (bs : List (BitVec w)) : b ∈ bs ↔ b.toNat ∈ bs.map BitVec.toNat :=
  (List.mem_map_of_injective fun _ _ => BitVec.eq_of_toNat_eq).symm

/-- Settles O5: a group of words is told by its fields, and a field of a word is its number divided and reduced. -/
theorem illegalWordsAreTheListedGroups : Obligations.IllegalWordsAreTheListedGroups := by
  intro op
  simp only [ne_eq, decode_eq_error_iff, Illegal.covers, ← BitVec.toNat_inj, mem_iff_toNat_mem, opKey_toNat, opN_toNat,
    opKk_toNat]
  refine ⟨?group0, Iff.rfl, ?group8, Iff.rfl, Iff.rfl, Iff.rfl, not_false⟩
  case group0 =>
    have hdiv : op.toNat / 0x1000 = 0 ↔ op.toNat < 0x1000 := by omega
    exact and_congr_left fun _ => hdiv
  case group8 =>
    have complement : ∀ n < 16, n ∉ [0, 1, 2, 3, 4, 5, 6, 7, 0xE] ↔ n ∈ [8, 9, 0xA, 0xB, 0xC, 0xD, 0xF] := by decide
    exact and_congr_right fun _ => complement _ (Nat.mod_lt _ (by decide))

/-! ## Words of the spec's examples -/

/-- Settles O1: twenty closed decodings (rules R84, R87, R90). -/
theorem decodeReadsSpecWords : Obligations.DecodeReadsSpecWords := by
  unfold Obligations.DecodeReadsSpecWords
  decide

end Sys2Proof
end

section
/-!
PROOFS. The timers (spec/47_cycle_driver.md section 3): what one tick does (rule R176), and that a decrement comes once in every
TIMER_DIVIDER ticks (rule R177).
-/

namespace Sys2Proof.Machine

variable {m : MachineState}

/-! ## One tick -/

/-- The number of ticks up to and with the next decrement: DC, or the whole divider when DC is to be reloaded (rule R176). -/
def MachineState.ticksLeft (m : MachineState) : Nat := if m.DC = 0 then Config.timerDivider else m.DC.toNat

theorem Config.timerDivider_pos : 0 < Config.timerDivider := Nat.succ_pos _

theorem Config.timerDivider_le : Config.timerDivider ≤ 255 := Config.timerDividerPred.isLt

theorem MachineState.ticksLeft_pos (m : MachineState) : 0 < m.ticksLeft := by
  unfold ticksLeft
  split
  · exact Config.timerDivider_pos
  · bv_omega

theorem MachineState.ticksLeft_le (m : MachineState) : m.ticksLeft ≤ 255 := by
  unfold ticksLeft
  split
  · exact Config.timerDivider_le
  · exact Nat.le_of_lt_succ m.DC.isLt

/-- A counter that is not zero is the number of ticks left. -/
theorem MachineState.ticksLeft_setDC {c : Nat} (m : MachineState) (hpos : 0 < c) (hle : c ≤ 255) :
    (m.setDC (BitVec.ofNat 8 c)).ticksLeft = c := by
  have hc : (BitVec.ofNat 8 c).toNat = c := Nat.mod_eq_of_lt (Nat.lt_succ_of_le hle)
  have hne : BitVec.ofNat 8 c ≠ 0 := by bv_omega
  rw [ticksLeft, setDC_DC, if_neg hne, hc]

/-- Everything a tick can do: the last one before a decrement makes it, every other one only counts (rule R176). -/
theorem timerTick_cases (m : MachineState) :
    (m.ticksLeft = 1 ∧ timerTick m = ((m.setDC 0).setDT (saturatingDec m.DT)).setST (saturatingDec m.ST)) ∨
    (1 < m.ticksLeft ∧ timerTick m = m.setDC (BitVec.ofNat 8 (m.ticksLeft - 1))) := by
  have hpos := m.ticksLeft_pos
  have htick : timerTick m =
      if m.ticksLeft - 1 = 0 then
        ((m.setDC (BitVec.ofNat 8 (m.ticksLeft - 1))).setDT (saturatingDec m.DT)).setST (saturatingDec m.ST)
      else m.setDC (BitVec.ofNat 8 (m.ticksLeft - 1)) := rfl
  by_cases h : m.ticksLeft - 1 = 0
  · rw [if_pos h, h] at htick
    exact .inl ⟨by omega, htick⟩
  · rw [if_neg h] at htick
    exact .inr ⟨by omega, htick⟩

theorem saturatingDec_toNat (b : Byte) : (saturatingDec b).toNat = b.toNat - 1 := by
  unfold saturatingDec
  split <;> bv_omega

/-- A tick leaves one tick less to go (rule R176). -/
theorem timerTick_DC_toNat (m : MachineState) : (timerTick m).DC.toNat = m.ticksLeft - 1 := by
  have hle := m.ticksLeft_le
  obtain ⟨hleft, e⟩ | ⟨-, e⟩ := timerTick_cases m <;> rw [e]
  · rw [hleft]
    rfl
  · exact Nat.mod_eq_of_lt (by omega)

/-- The delay timer after a tick: decremented by the last one alone (rule R176). -/
theorem timerTick_DT_toNat (m : MachineState) :
    (timerTick m).DT.toNat = if m.ticksLeft - 1 = 0 then m.DT.toNat - 1 else m.DT.toNat := by
  obtain ⟨hleft, e⟩ | ⟨hleft, e⟩ := timerTick_cases m <;> rw [e]
  · rw [if_pos (by omega)]
    exact saturatingDec_toNat m.DT
  · rw [if_neg (by omega), MachineState.setDC_DT]

/-- The sound timer after a tick: decremented by the last one alone (rule R176). -/
theorem timerTick_ST_toNat (m : MachineState) :
    (timerTick m).ST.toNat = if m.ticksLeft - 1 = 0 then m.ST.toNat - 1 else m.ST.toNat := by
  obtain ⟨hleft, e⟩ | ⟨hleft, e⟩ := timerTick_cases m <;> rw [e]
  · rw [if_pos (by omega)]
    exact saturatingDec_toNat m.ST
  · rw [if_neg (by omega), MachineState.setDC_ST]

/-- A tick writes DC and the timers, nothing else (rule R176). -/
theorem sameBut_timerTick (s : State) : sameBut [.DC, .DT, .ST] s { s with S := timerTick s.S } := by
  obtain ⟨-, e⟩ | ⟨-, e⟩ := timerTick_cases s.S <;> rw [e] <;> simp [sameBut, Field.forall, Field.same]

/-- Settles O20: an unfaulted engine ticks S and answers; the count and the two timers after a tick are its laws above. -/
theorem advanceTimersCountsDown : Obligations.AdvanceTimersCountsDown := by
  intro s hf
  have e : s.perform .advanceTimers = .next (s.modifyS timerTick) :=
    congrArg Host.Outcome.next (State.unlessFaulted_of_unfaulted _ hf)
  exact ⟨_, e, timerTick_DC_toNat s.S, timerTick_DT_toNat s.S, timerTick_ST_toNat s.S, rfl,
    (sameBut_answer s .ok).trans (sameBut_timerTick (s.answer .ok))⟩

/-! ## Ticks up to the next decrement -/

/-- Until the last tick before a decrement the timers keep their values; that tick makes it and ends with DC = 0 (rule R177). -/
theorem timerTick_iterate (m : MachineState) :
    (∀ j, j < m.ticksLeft → (timerTick^[j] m).DT = m.DT ∧ (timerTick^[j] m).ST = m.ST) ∧
    (timerTick^[m.ticksLeft] m).DC = 0 ∧ (timerTick^[m.ticksLeft] m).DT = saturatingDec m.DT ∧
    (timerTick^[m.ticksLeft] m).ST = saturatingDec m.ST := by
  induction hd : m.ticksLeft generalizing m with
  | zero => exact absurd hd m.ticksLeft_pos.ne'
  | succ d ih =>
    obtain ⟨hleft, e⟩ | ⟨hleft, e⟩ := timerTick_cases m
    · obtain rfl : d = 0 := by omega
      refine ⟨fun j hj => ?_, ?_⟩
      · obtain rfl : j = 0 := by omega
        exact ⟨rfl, rfl⟩
      · rw [Function.iterate_one, e]
        exact ⟨rfl, rfl, rfl⟩
    · have hle := m.ticksLeft_le
      have hnext : (timerTick m).ticksLeft = d := by
        rw [e, m.ticksLeft_setDC (by omega) (by omega), hd, Nat.add_sub_cancel]
      obtain ⟨hkept, hdecremented⟩ := ih (timerTick m) hnext
      have hDT : (timerTick m).DT = m.DT := by rw [e, MachineState.setDC_DT]
      have hST : (timerTick m).ST = m.ST := by rw [e, MachineState.setDC_ST]
      rw [hDT, hST] at hdecremented
      refine ⟨fun j hj => ?_, hdecremented⟩
      cases j with
      | zero => exact ⟨rfl, rfl⟩
      | succ j =>
        have hj' := hkept j (Nat.lt_of_succ_lt_succ hj)
        rw [hDT, hST] at hj'
        exact hj'

/-- Settles O21: the ticks left are the statement's d, and a decrement is the saturating one. -/
theorem timersDecrementOncePerDivider : Obligations.TimersDecrementOncePerDivider := by
  intro m
  obtain ⟨hkept, hDC, hDT, hST⟩ := timerTick_iterate m
  refine ⟨hkept, hDC, ?DT, ?ST⟩
  case DT => exact (congrArg BitVec.toNat hDT).trans (saturatingDec_toNat m.DT)
  case ST => exact (congrArg BitVec.toNat hST).trans (saturatingDec_toNat m.ST)

end Sys2Proof.Machine
end

section
/-!
PROOFS. The invariant of rule R50 (spec/10_state.md section 9): which updates of S keep it, that every instruction executed at a pc the
fetch can read keeps it, and that every command does.
-/

namespace Sys2Proof.Machine

variable {s t : State} {m : MachineState}

/-! ## Updates of a Machine State -/

namespace MachineState.sound

/-- An update that leaves SP, DC, pc, the stack and memory leaves the invariant. -/
theorem of_same {m' : MachineState} (h : m.sound) (hSP : m'.SP = m.SP) (hDC : m'.DC = m.DC) (hpc : m'.pc = m.pc)
    (hstack : m'.stack = m.stack) (hmem : m'.mem = m.mem) : m'.sound := by
  unfold MachineState.sound
  rw [hSP, hDC, hpc, hstack, hmem]
  exact h

theorem setPc (h : m.sound) {w : Word} (hw : w.toNat ≤ 0x10FE) : (m.setPc w).sound := by
  obtain ⟨hSP, hDC, -, hstack, hmem⟩ := h
  exact ⟨hSP, hDC, hw, hstack, hmem⟩

/-- The default advance from a pc the fetch can read stays far below the bound. -/
theorem advance (h : m.sound) (hpc : m.pc.toNat ≤ 0xFFE) : m.advance.sound :=
  h.setPc (by bv_omega)

/-- So does a skip. -/
theorem skipIf (h : m.sound) (hpc : m.pc.toNat ≤ 0xFFE) (c : Bool) : (m.skipIf c).sound := by
  refine h.setPc ?_
  split <;> bv_omega

theorem setMem (h : m.sound) {mem' : Memory} (hmem' : Memory.wf mem' = true) : (m.setMem mem').sound := by
  obtain ⟨hSP, hDC, hpc, hstack, -⟩ := h
  exact ⟨hSP, hDC, hpc, hstack, hmem'⟩

theorem setDC (h : m.sound) {b : Byte} (hb : b.toNat < Config.timerDivider) : (m.setDC b).sound := by
  obtain ⟨hSP, -, hpc, hstack, hmem⟩ := h
  exact ⟨hSP, hb, hpc, hstack, hmem⟩

/-- A pushed return address is at most 0x1000 (rule R102). -/
theorem push (h : m.sound) (hsp : m.SP.toNat < 16) {a : Word} (ha : a.toNat ≤ 0x1000) :
    MachineState.sound { m with stack := m.stack.set m.SP.toNat a hsp, SP := m.SP + 1 } := by
  obtain ⟨-, hDC, hpc, hstack, hmem⟩ := h
  refine ⟨?count, hDC, hpc, fun k => ?slot, hmem⟩
  case count => show (m.SP + 1).toNat ≤ 16; bv_omega
  case slot =>
    rw [Vector.getElem_set]
    split
    · exact ha
    · exact hstack k

theorem pop (h : m.sound) {k : Fin 16} (hk : m.SP.toNat = k.val + 1) : MachineState.sound { m with SP := m.SP - 1 } := by
  obtain ⟨-, hDC, hpc, hstack, hmem⟩ := h
  refine ⟨?count, hDC, hpc, hstack, hmem⟩
  case count => show (m.SP - 1).toNat ≤ 16; bv_omega

end MachineState.sound

/-! ## Instructions -/

theorem zext12_toNat (a : Addr) : (zext12 a).toNat = a.toNat :=
  BitVec.toNat_setWidth_of_le (by decide)

theorem zext8_toNat (b : Byte) : (zext8 b).toNat = b.toNat :=
  BitVec.toNat_setWidth_of_le (by decide)

/-- The target of JP_OFFSET, which nothing shortens (rule R104). -/
theorem MachineState.offsetTarget_toNat (m : MachineState) (nnn : Addr) :
    (m.offsetTarget nnn).toNat = nnn.toNat + (m.readV 0).toNat := by
  rw [offsetTarget, BitVec.toNat_add, zext12_toNat, zext8_toNat, Nat.mod_eq_of_lt (by omega)]

/-- A store at I that completes keeps the invariant: it stays inside memory (rule R63). -/
theorem storeAtI_sound {bs : List Byte} (hs : s.S.sound) (hpc : s.S.pc.toNat ≤ 0xFFE) (h : s.storeAtI bs = .next t) :
    t.S.sound := by
  obtain ⟨hin, e⟩ | ⟨-, -, e⟩ := State.storeAtI_cases s bs <;> rw [e] at h
  · obtain rfl := Host.Outcome.next.inj h
    have ⟨_, _, _, _, hmem⟩ := hs
    exact (hs.setMem (Memory.wf_writeBytes bs _ hmem _ hin)).advance hpc
  · cases h

/-- An instruction executed at a pc the fetch can read keeps the invariant; the cases are the ways an instruction ends. -/
theorem exec_sound {i : Instr} (hs : s.S.sound) (hpc : s.S.pc.toNat ≤ 0xFFE) (h : exec i s = .next t) : t.S.sound := by
  cases i with
  | jp nnn =>
    obtain rfl := State.next_of_install h
    refine hs.setPc ?_
    rw [zext12_toNat]
    omega
  | jpOffset nnn =>
    obtain rfl := State.next_of_install h
    refine hs.setPc ?_
    rw [MachineState.offsetTarget_toNat]
    omega
  | se | sne | seReg | sneReg =>
    obtain rfl := State.next_of_install h
    exact hs.skipIf hpc _
  | skp =>
    obtain ⟨k, -, rfl⟩ := execSkp_next h
    exact hs.skipIf hpc _
  | sknp =>
    obtain ⟨k, -, rfl⟩ := execSknp_next h
    exact hs.skipIf hpc _
  | call nnn =>
    obtain ⟨hsp, rfl⟩ := execCall_next h
    refine (hs.push hsp (by bv_omega)).setPc ?_
    rw [zext12_toNat]
    omega
  | ret =>
    obtain ⟨k, hk, rfl⟩ := execRet_next h
    have ⟨_, _, _, hstack, _⟩ := hs
    exact (hs.pop hk).setPc ((hstack k).trans (by decide))
  | bcd | storeRegs => exact storeAtI_sound hs hpc h
  | loadRegs =>
    obtain rfl := execLoadRegs_next h
    exact (hs.of_same rfl rfl rfl rfl rfl : MachineState.sound _).advance hpc
  | drw =>
    obtain ⟨f, b, rfl⟩ := execDrw_next h
    exact (hs.of_same rfl rfl rfl rfl rfl : MachineState.sound _).advance hpc
  | _ =>
    obtain rfl := State.next_of_install h
    exact (hs.of_same rfl rfl rfl rfl rfl : MachineState.sound _).advance hpc

/-! ## Commands on S -/

/-- A tick counts below the divider (rule R176). -/
theorem timerTick_sound (h : m.sound) : (timerTick m).sound := by
  have hDC : (timerTick m).DC.toNat < Config.timerDivider := by
    have ⟨_, hlt, _, _, _⟩ := h
    have hpos := Config.timerDivider_pos
    rw [timerTick_DC_toNat, MachineState.ticksLeft]
    split <;> omega
  have hset := h.setDC hDC
  obtain ⟨-, e⟩ | ⟨-, e⟩ := timerTick_cases m <;> rw [e] at hset ⊢ <;> exact hset

/-- A key pressed writes the keys and, to end a wait, a register and wait_reg (rule R178). -/
theorem pressKey_sound (h : m.sound) (k : Reg) : (pressKey k m).sound := by
  unfold pressKey MachineState.endWait
  split <;> exact h.of_same rfl rfl rfl rfl rfl

/-- A program that fits is written inside memory (rule R181). -/
theorem loadProgram_sound (h : s.S.sound) (bytes : List Byte) : (s.loadProgram bytes).S.sound := by
  unfold State.loadProgram programMax
  split
  · exact h
  · have ⟨_, _, _, _, hmem⟩ := h
    refine h.setMem (Memory.wf_writeBytes bytes _ hmem _ (.inr ?_))
    unfold programBase memorySize
    omega

theorem currentFrame_sound (h : s.S.sound) : s.currentFrame.S.sound := by
  unfold State.currentFrame
  split
  · cases s.fault <;> exact h
  · exact h

/-! ## The engine -/

namespace State.sound

/-- A new S that meets the invariant, over the same history. -/
theorem of_history_eq (h : s.sound) (hS : t.S.sound) (hhist : t.history = s.history) : t.sound := by
  obtain ⟨-, hcap, harch⟩ := h
  unfold State.sound
  rw [hhist]
  exact ⟨hS, hcap, harch⟩

/-- Recording a sound state keeps the history within its capacity, every archived state sound and no key held in one (rules R191,
R192). -/
theorem of_history_eq_record (h : s.sound) (hS : t.S.sound) (hm : m.sound) (hhist : t.history = record s.history m) :
    t.sound := by
  obtain ⟨-, hcap, harch⟩ := h
  unfold State.sound
  rw [hhist]
  refine ⟨hS, ?capacity, fun n hn => ?archived⟩
  case capacity =>
    rw [length_record m hcap]
    exact min_le_right _ _
  case archived =>
    rw [record_eq_drop m hcap] at hn
    obtain hold | hnew := List.mem_append.1 (List.mem_of_mem_drop hn)
    · exact harch n hold
    · obtain rfl := List.mem_singleton.1 hnew
      exact ⟨hm.of_same rfl rfl rfl rfl rfl, m.zeroKeys_keyHeld⟩

/-- Rewind installs an archived state and shortens the history (rules R193, R194). -/
theorem rewind (h : s.sound) : s.rewind.sound := by
  obtain ⟨-, e⟩ | ⟨hs, m, hcons, e⟩ := s.rewind_cases <;> rw [e]
  · exact h
  · obtain ⟨-, hcap, harch⟩ := h
    rw [hcons] at hcap harch
    refine ⟨(harch m (by simp)).1, ?_, fun n hn => harch n (List.mem_append_left _ hn)⟩
    rw [List.length_append] at hcap
    exact Nat.le_of_add_right_le hcap

/-- A command refused changes nothing the invariant speaks of (rule R184). -/
theorem unlessFaulted (h : s.sound) {g : State → State} (hg : (g s).sound) : (s.unlessFaulted g).sound := by
  obtain ⟨-, e⟩ | ⟨-, e⟩ := s.unlessFaulted_cases g <;> rw [e]
  · exact h
  · exact hg

/-- advance_cpu keeps the invariant: what it executes was fetched at a pc the fetch can read (rules R171 to R173). -/
theorem advanceCpu (h : s.sound) (ht : s.advanceCpu = .next t) : t.sound := by
  have ⟨hS, _, _⟩ := h
  obtain ⟨-, e⟩ | ⟨-, -, e⟩ | ⟨-, -, f, -, e⟩ | ⟨-, -, i, hi, e⟩ := s.advanceCpu_cases <;> rw [e] at ht
  case inr.inr.inr =>
    have hpc : s.S.pc.toNat ≤ 0xFFE := by
      obtain ⟨-, e⟩ | ⟨hpc, -⟩ := fetchDecode_cases s.S
      · cases hi.symm.trans e
      · exact hpc
    obtain ⟨u, hu, rfl⟩ | ⟨f, -, rfl⟩ := State.conclude_next _ _ _ ht
    · have hu' : u.S.sound := exec_sound hS hpc hu
      exact h.of_history_eq_record hu' hS (congrArg (record · s.S) (exec_history hu))
    · exact h
  all_goals obtain rfl := Host.Outcome.next.inj ht
  · exact h
  · exact h.of_history_eq_record hS hS rfl
  · exact h

end State.sound

/-- Settles O55: every bound holds of the reset values, whatever the divider and the capacity are. -/
theorem resetIsSound : Obligations.ResetIsSound := by
  refine ⟨⟨?SP, Config.timerDivider_pos, ?pc, ?stack, Memory.wf_reset⟩, Nat.zero_le _, fun m hm => absurd hm List.not_mem_nil⟩
  case SP => decide
  case pc => decide
  case stack => decide

/-- Every command keeps the invariant. -/
theorem perform_sound {c : Command} (h : s.sound) (ht : s.perform c = .next t) : t.sound := by
  have ⟨hS, _, _⟩ := h
  cases c with
  | advanceCpu => exact h.advanceCpu ht
  | reset =>
    obtain rfl := Host.Outcome.next.inj ht
    exact resetIsSound
  | rewind =>
    obtain rfl := Host.Outcome.next.inj ht
    exact h.unlessFaulted h.rewind
  | loadProgram bytes =>
    obtain rfl := Host.Outcome.next.inj ht
    exact h.unlessFaulted (h.of_history_eq (loadProgram_sound hS bytes) (State.loadProgram_history s bytes))
  | advanceTimers =>
    obtain rfl := Host.Outcome.next.inj ht
    exact h.unlessFaulted (h.of_history_eq (timerTick_sound hS) rfl)
  | keyPress k =>
    obtain rfl := Host.Outcome.next.inj ht
    exact h.unlessFaulted (h.of_history_eq (pressKey_sound hS k) rfl)
  | keyRelease k =>
    obtain rfl := Host.Outcome.next.inj ht
    exact h.unlessFaulted (h.of_history_eq (hS.of_same rfl rfl rfl rfl rfl) rfl)
  | currentFrame =>
    obtain rfl := Host.Outcome.next.inj ht
    exact h.of_history_eq (currentFrame_sound hS) (State.currentFrame_history s)

/-- Settles O56: a step takes a command from the inbox, of which the invariant does not speak, and performs it; every command keeps the
invariant. -/
theorem stepKeepsSoundness : Obligations.StepKeepsSoundness := by
  intro s t h ht
  obtain ⟨-, e⟩ | ⟨c, cs, -, e⟩ := s.serve_cases
  · obtain rfl := Host.Outcome.next.inj (e.symm.trans ht)
    exact h
  · exact perform_sound (s := { s with inbox := cs }) h (e.symm.trans ht)

end Sys2Proof.Machine
end

section
/-!
PROOFS. The Cycle Driver and the host's commands (spec/47_cycle_driver.md, spec/70_reset_and_hazards.md): fetch and advance_cpu of a
Running engine (rules R66, R171, R173, R236), the round trip through the history (rule R197), commands of a faulted engine and reset
(rules R184, R230), key_press, load_program and current_frame (rules R178, R181, R183).
-/

namespace Sys2Proof.Machine

variable {s t : State} {m : MachineState}

/-! ## Fetch and advance_cpu -/

/-- A word is its high byte times 256 and its low byte (rule R66). -/
theorem append_eq_ofNat (hi lo : Byte) : hi ++ lo = BitVec.ofNat 16 (hi.toNat * 256 + lo.toNat) := by
  refine BitVec.eq_of_toNat_eq ?_
  rw [BitVec.toNat_append, ← Nat.shiftLeft_add_eq_or_of_lt lo.isLt, Nat.shiftLeft_eq, BitVec.toNat_ofNat]
  omega

/-- Settles O27: the fetch at a pc it can read takes the two bytes there, which are the bytes stored. -/
theorem fetchReadsStoredWord : Obligations.FetchReadsStoredWord := by
  intro m hi lo hpc
  obtain ⟨-, e⟩ | ⟨hout, -⟩ := fetch_cases (m.setMem (Memory.writeBytes m.mem m.pc.toNat [hi, lo]))
  · rw [e, ← append_eq_ofNat]
    simp [Memory.read_writeBytes]
  · exact absurd hpc (Nat.not_le.2 hout)

/-- advance_cpu of a Running engine whose word at pc decodes executes the instruction (rules R171, R173). -/
theorem State.perform_advanceCpu_of_decode {i : Instr} (hf : s.fault = none) (hw : s.S.waitReg = none)
    (hpc : s.S.pc.toNat ≤ 0xFFE)
    (hd : decode (Memory.read s.S.mem s.S.pc.toNat ++ Memory.read s.S.mem (s.S.pc.toNat + 1)) = .ok i) :
    s.perform .advanceCpu = s.conclude (exec i s) := by
  refine advanceCpu_of_fetchDecode_ok hf hw ?_
  rw [fetchDecode_of_inside hpc rfl, hd]
  rfl

/-- Settles O6: what the driver does with an outcome is the statement's match on it, for the engine as for what a step leaves of it. -/
theorem stepRunsDecodedInstruction : Obligations.StepRunsDecodedInstruction := by
  intro s i hf hw hpc hd performed
  have concluded (u : State) : u.conclude (exec i u) = performed u := by
    dsimp only [performed]
    cases exec i u <;> rfl
  refine ⟨?command, fun cs hin => ?step⟩
  case command => rw [State.perform_advanceCpu_of_decode hf hw hpc hd, concluded]
  case step =>
    rw [step_of_inbox_cons hin, State.perform_advanceCpu_of_decode (s := { s with inbox := cs }) hf hw hpc hd, concluded]

/-- Memory after reset holds no instruction at the reset pc (rule R236). -/
theorem fetchDecode_reset : fetchDecode MachineState.reset = .error (.decodeError 0x0000 0x200) := by
  decide

/-- Settles O14: the word at the reset pc is illegal, and a fault of decode is taken whatever commands wait. -/
theorem runningWithoutProgramFaults : Obligations.RunningWithoutProgramFaults := by
  refine ⟨State.advanceCpu_of_fetchDecode_error rfl rfl fetchDecode_reset, fun cs => ?_⟩
  rw [step_of_inbox_cons rfl]
  exact State.advanceCpu_of_fetchDecode_error rfl rfl fetchDecode_reset

/-! ## The round trip through the history -/

/-- An advance_cpu of an unfaulted engine answers Ok exactly when it latches no fault (rules R171 to R173). -/
theorem response_ok_iff_of_advanceCpu (hf : s.fault = none) (h : s.advanceCpu = .next t) :
    t.response = some .ok ↔ t.fault = none := by
  obtain ⟨hf', -⟩ | ⟨-, -, e⟩ | ⟨-, -, f, -, e⟩ | ⟨-, -, i, -, e⟩ := s.advanceCpu_cases
  case inl => exact absurd hf hf'
  all_goals rw [e] at h
  case inr.inr.inr =>
    obtain ⟨u, hu, rfl⟩ | ⟨f, -, rfl⟩ := State.conclude_next _ _ _ h
    · have hfault : u.fault = s.fault := exec_sameBut hu .fault (by cases i <;> simp [writtenFields])
      simp [hfault, hf]
    · simp
  all_goals obtain rfl := Host.Outcome.next.inj h
  · simp [hf]
  · simp

/-- Recording puts the state, keys zeroed, after the history, less its oldest entry when it was full (rules R191, R192). -/
theorem record_eq_concat (h : List MachineState) (m : MachineState) :
    ∃ hs, record h m = hs ++ [m.zeroKeys] ∧ (h.length < Config.historyCapacity → hs = h) ∧
      (h.length = Config.historyCapacity → hs = h.tail) :=
  ⟨_, rfl, fun hlt => if_neg hlt.ne, fun heq => if_pos heq⟩

/-- A faulted engine refuses (rule R184). -/
theorem State.unlessFaulted_of_faulted (g : State → State) (hf : s.fault ≠ none) : s.unlessFaulted g = s.answer .refused := by
  obtain ⟨-, e⟩ | ⟨hf', -⟩ := s.unlessFaulted_cases g
  · exact e
  · exact absurd hf' hf

/-- Settles O19: an Ok has archived the old S last and left the engine unfaulted, so rewind installs it; anything else has latched a
fault, so rewind is refused. -/
theorem advanceThenRewindRestoresState : Obligations.AdvanceThenRewindRestoresState := by
  intro s t hf _ ht
  have hiff := response_ok_iff_of_advanceCpu hf ht
  obtain ⟨-, -, -, harchived, -⟩ := onlyAdvanceCpuArchives s t .advanceCpu ht
  refine ⟨fun hok => ?answered, fun hne => ?faulted⟩
  case answered =>
    obtain ⟨hs, hrec, hbelow, hfull⟩ := record_eq_concat s.history s.S
    rw [State.perform_rewind_of_unfaulted (hiff.1 hok), State.rewind_of_history_concat ((harchived rfl hok).trans hrec)]
    exact ⟨_, rfl, rfl, hbelow, hfull⟩
  case faulted => exact congrArg Host.Outcome.next (State.unlessFaulted_of_faulted _ (hiff.not.1 hne))

/-! ## current_frame -/

theorem MachineState.clearDrawFlag_of_eq_false (h : m.drawFlag = false) : m.clearDrawFlag = m := by
  cases m
  cases h
  rfl

/-- current_frame of an unfaulted engine leaves draw_flag clear, whether it answers the frame or None (rule R183). -/
theorem State.currentFrame_of_unfaulted (hf : s.fault = none) :
    s.currentFrame =
      State.answer { s with S := s.S.clearDrawFlag } (.frame (if s.S.drawFlag = true then some s.S.fb else none)) := by
  unfold currentFrame
  cases hdraw : s.S.drawFlag with
  | true => simp [hf]
  | false => simp [MachineState.clearDrawFlag_of_eq_false hdraw]

/-- current_frame of a faulted engine only answers (rule R184). -/
theorem State.currentFrame_of_faulted (hf : s.fault ≠ none) :
    s.currentFrame = s.answer (.frame (if s.S.drawFlag = true then some s.S.fb else none)) := by
  unfold currentFrame
  cases hdraw : s.S.drawFlag with
  | true => simp [Option.isSome_iff_ne_none.2 hf]
  | false => simp

theorem sameBut_clearDrawFlag (s : State) : sameBut [.drawFlag] s { s with S := s.S.clearDrawFlag } := by
  simp [sameBut, Field.forall, Field.same]

/-- Settles O25: the next state is explicit. -/
theorem currentFrameAnswersAndClears : Obligations.CurrentFrameAnswersAndClears := by
  intro s hf
  refine ⟨_, congrArg Host.Outcome.next (State.currentFrame_of_unfaulted hf), rfl, rfl, ?_⟩
  exact (sameBut_answer s _).trans (sameBut_clearDrawFlag (s.answer _))

/-! ## Commands of a faulted engine, and reset -/

/-- advance_cpu of a faulted engine is refused (rule R184). -/
theorem State.advanceCpu_of_faulted (hf : s.fault ≠ none) : s.advanceCpu = .next (s.answer .refused) := by
  obtain ⟨-, e⟩ | ⟨hf', -⟩ | ⟨hf', -⟩ | ⟨hf', -⟩ := s.advanceCpu_cases
  · exact e
  all_goals exact absurd hf' hf

/-- Settles O10: every command but reset and current_frame goes through the refusal. -/
theorem faultedEngineRefusesAllButReset : Obligations.FaultedEngineRefusesAllButReset := by
  intro s c hf
  refine ⟨fun hres hframe => ?refused, ?frame, _, rfl, rfl, rfl⟩
  case refused =>
    cases c with
    | reset => exact absurd rfl hres
    | currentFrame => exact absurd rfl hframe
    | advanceCpu => exact State.advanceCpu_of_faulted hf
    | loadProgram | advanceTimers | keyPress | keyRelease | rewind =>
      exact congrArg Host.Outcome.next (State.unlessFaulted_of_faulted _ hf)
  case frame => exact congrArg Host.Outcome.next (State.currentFrame_of_faulted hf)

/-- Settles O11: what reset installs does not depend on the state it is performed in. -/
theorem resetInstallsResetState : Obligations.ResetInstallsResetState :=
  fun _ => rfl

/-- Above the font table, reset memory reads as 0 (rules R42, R68). -/
theorem Memory.read_reset_of_font_le {a : Nat} (h : 80 ≤ a) : Memory.read MachineState.reset.mem a = 0 :=
  List.getD_eq_default Config.font 0 h

/-- Settles O12: reset memory lists nothing, so that it reads as the font table and zeros; every other value is written out. -/
theorem resetStateHoldsStatedValues : Obligations.ResetStateHoldsStatedValues := by
  refine ⟨by decide, rfl, rfl, rfl, by decide, rfl, fun _ _ => rfl, rfl, rfl, rfl, rfl, rfl, rfl, rfl, rfl, rfl, rfl, rfl, rfl,
    rfl, rfl, rfl, rfl, fun a => Memory.read_reset_of_font_le, FrameBuffer.get_clear, rfl, rfl, rfl, rfl, by decide, rfl, rfl, rfl⟩

/-! ## key_press -/

/-- Everything a key press can do: the key is held, and a wait, if there is one, ends with the key's number (rule R178). -/
theorem pressKey_cases (k : Reg) (m : MachineState) :
    (m.waitReg = none ∧ pressKey k m = m.setKey k true) ∨
    (∃ r, m.waitReg = some r ∧
      pressKey k m = ((m.setKey k true).writeV r (BitVec.ofNat 8 k.val)).setWait none) := by
  unfold pressKey MachineState.endWait
  rw [MachineState.setKey_waitReg]
  cases m.waitReg with
  | none => exact .inl ⟨rfl, rfl⟩
  | some r => exact .inr ⟨r, rfl, rfl⟩

theorem pressKey_keyHeld (k : Reg) (m : MachineState) (j : Reg) :
    (pressKey k m).keyHeld j = if j = k then true else m.keyHeld j := by
  obtain ⟨-, e⟩ | ⟨r, -, e⟩ := pressKey_cases k m <;> rw [e]
  · exact m.setKey_keyHeld k true j
  · exact m.setKey_keyHeld k true j

theorem pressKey_readV (k : Reg) (m : MachineState) (j : Reg) :
    (pressKey k m).readV j = if m.waitReg = some j then BitVec.ofNat 8 k.val else m.readV j := by
  obtain ⟨hw, e⟩ | ⟨r, hw, e⟩ := pressKey_cases k m <;> rw [e, hw]
  · simp
  · simp [eq_comm]

/-- A key press writes the keys and, to end a wait, a register and wait_reg (rule R178). -/
theorem sameBut_pressKey (k : Reg) (s : State) : sameBut [.V, .keys, .waitReg] s { s with S := pressKey k s.S } := by
  obtain ⟨-, e⟩ | ⟨r, -, e⟩ := pressKey_cases k s.S <;> rw [e] <;> simp [sameBut, Field.forall, Field.same]

/-- Settles O22: an unfaulted engine presses the key on S and answers; keys, wait_reg and registers after that are its laws above. -/
theorem keyPressMarksKeyAndEndsWait : Obligations.KeyPressMarksKeyAndEndsWait := by
  intro s k hf
  have e : s.perform (.keyPress k) = .next (s.modifyS (pressKey k)) :=
    congrArg Host.Outcome.next (State.unlessFaulted_of_unfaulted _ hf)
  exact ⟨_, e, pressKey_keyHeld k s.S, pressKey_waitReg k s.S, pressKey_readV k s.S, rfl,
    (sameBut_answer s .ok).trans (sameBut_pressKey k (s.answer .ok))⟩

/-! ## load_program -/

/-- A program that fits is written to 0x200 on (rule R181). -/
theorem State.loadProgram_of_fits (s : State) {bytes : List Byte} (h : bytes.length ≤ 3584) :
    s.loadProgram bytes = State.answer { s with S := s.S.setMem (Memory.writeBytes s.S.mem programBase bytes) } .ok :=
  if_neg (Nat.not_lt.2 h)

/-- A program too long is only counted (rule R181). -/
theorem State.loadProgram_of_too_long (s : State) {bytes : List Byte} (h : 3584 < bytes.length) :
    s.loadProgram bytes = s.answer (.loadError bytes.length) :=
  if_pos h

/-- Settles O24: the length decides between the bytes written from 0x200 on, which read back, and the answer LoadError. -/
theorem loadProgramCopiesBytes : Obligations.LoadProgramCopiesBytes := by
  intro s bytes hf
  have e : s.perform (.loadProgram bytes) = .next (s.loadProgram bytes) :=
    congrArg Host.Outcome.next (State.unlessFaulted_of_unfaulted _ hf)
  refine ⟨fun hfits => ?loaded, fun hlong => e.trans (congrArg _ (s.loadProgram_of_too_long hlong))⟩
  case loaded =>
    exact ⟨_, e.trans (congrArg _ (s.loadProgram_of_fits hfits)), Memory.read_writeBytes bytes s.S.mem programBase, rfl,
      (sameBut_answer s .ok).trans (sameBut_setMem (s.answer .ok) _)⟩

end Sys2Proof.Machine
end

section
/-!
PROOFS. Control transfer and skips (spec/40_control_flow.md, spec/41_skips.md): JP, CALL, RET, JP_OFFSET (rules R101 to R104) and the six
skips (rules R111 to R116).
-/

namespace Sys2Proof.Machine

variable {s t : State}

/-! ## JP and JP_OFFSET -/

/-- JP always completes (rule R101). -/
theorem exec_jp (nnn : Addr) (s : State) : exec (.jp nnn) s = .next { s with S := s.S.setPc (zext12 nnn) } := rfl

/-- A pc set to what it holds changes nothing. -/
theorem MachineState.setPc_of_eq {m : MachineState} {w : Word} (h : w = m.pc) : m.setPc w = m := by
  rw [h]
  rfl

/-- Settles O33: the next state of JP is explicit; a jump to the instruction itself sets pc to what it holds. -/
theorem jpSetsPc : Obligations.JpSetsPc := by
  intro nnn
  refine ⟨decode_encode (i := .jp nnn) rfl, fun s => ⟨_, exec_jp nnn s, zext12_toNat nnn, exec_sameBut (exec_jp nnn s), ?_⟩⟩
  intro hself
  exact MachineState.setPc_of_eq (BitVec.eq_of_toNat_eq ((zext12_toNat nnn).trans hself.symm))

/-- JP_OFFSET always completes (rule R104). -/
theorem exec_jpOffset (nnn : Addr) (s : State) :
    exec (.jpOffset nnn) s = .next { s with S := s.S.setPc (s.S.offsetTarget nnn) } := rfl

/-- Settles O36: the next state of JP_OFFSET is explicit, and its target is the sum unreduced. -/
theorem jpOffsetAddsV0 : Obligations.JpOffsetAddsV0 := by
  intro nnn
  refine ⟨decode_encode (i := .jpOffset nnn) rfl, fun s => ⟨_, exec_jpOffset nnn s, ?_, exec_sameBut (exec_jpOffset nnn s)⟩⟩
  exact s.S.offsetTarget_toNat nnn

/-! ## CALL -/

/-- CALL with a free slot pushes the return address and jumps (rule R102). -/
theorem exec_call_of_lt {nnn : Addr} (h : s.S.SP.toNat < 16) :
    let pushed := { s.S with stack := s.S.stack.set s.S.SP.toNat (s.S.pc + 2) h, SP := s.S.SP + 1 }
    exec (.call nnn) s = .next { s with S := pushed.setPc (zext12 nnn) } := by
  show execCall nnn s = _
  unfold execCall
  obtain ⟨_, e⟩ | ⟨hfull, -⟩ := s.S.push_cases (s.S.pc + 2)
  · rw [e]
    rfl
  · omega

/-- CALL with every slot occupied faults (rule R102). -/
theorem exec_call_of_full {nnn : Addr} (h : 16 ≤ s.S.SP.toNat) :
    exec (.call nnn) s = .fault (.boundsError .stack (zext8 s.S.SP)) := by
  show execCall nnn s = _
  unfold execCall
  obtain ⟨hfree, -⟩ | ⟨-, e⟩ := s.S.push_cases (s.S.pc + 2)
  · omega
  · rw [e]

/-- Settles O34: SP decides between the next state, whose stack reads as after one slot written, and the fault. -/
theorem callPushesReturnAddress : Obligations.CallPushesReturnAddress := by
  intro nnn
  refine ⟨decode_encode (i := .call nnn) rfl, fun s => ⟨fun h => ?pushed, exec_call_of_full⟩⟩
  case pushed =>
    have e := exec_call_of_lt (nnn := nnn) h
    refine ⟨_, e, zext12_toNat nnn, ?count, fun k => ?slot, exec_sameBut e⟩
    case count =>
      show (s.S.SP + 1).toNat = _
      bv_omega
    case slot =>
      simp only [MachineState.setPc_stack, Vector.getElem_set, eq_comm]

/-! ## RET -/

/-- RET with an occupied slot jumps to its newest address (rule R103). -/
theorem exec_ret_of_eq_succ {k : Fin 16} (h : s.S.SP.toNat = k.val + 1) :
    exec .ret s = .next { s with S := MachineState.setPc { s.S with SP := s.S.SP - 1 } s.S.stack[k.val] } := by
  show execRet s = _
  unfold execRet
  obtain ⟨k', hk', e⟩ | ⟨hout, -⟩ := s.S.pop_cases
  · obtain rfl : k' = k := Fin.ext (Nat.succ.inj (hk'.symm.trans h))
    rw [e]
    rfl
  · omega

/-- RET with no slot occupied, or with an SP above the stack, faults (rule R103, log 11). -/
theorem exec_ret_of_outside (h : s.S.SP.toNat = 0 ∨ 16 < s.S.SP.toNat) :
    exec .ret s = .fault (.boundsError .stack (zext8 s.S.SP)) := by
  show execRet s = _
  unfold execRet
  obtain ⟨k, hk, -⟩ | ⟨-, e⟩ := s.S.pop_cases
  · omega
  · rw [e]

/-- Settles O35: SP decides between the next state and the fault. -/
theorem retPopsReturnAddress : Obligations.RetPopsReturnAddress := by
  refine ⟨rfl, fun s => ⟨fun k hk => ?popped, fun hempty => ?empty, fun habove => exec_ret_of_outside (.inr habove)⟩⟩
  case popped =>
    have e := exec_ret_of_eq_succ hk
    refine ⟨_, e, ?count, rfl, exec_sameBut e⟩
    show (s.S.SP - 1).toNat = _
    bv_omega
  case empty =>
    rw [exec_ret_of_outside (.inl (congrArg BitVec.toNat hempty)), hempty]
    rfl

/-! ## Skips -/

/-- An instruction that only skips on a condition (rule R110). -/
theorem completes_of_skipIf {i : Instr} {c : Bool} {p : Prop} [Decidable p] (e : exec i s = s.install (s.S.skipIf c))
    (hc : c = true ↔ p) (hw : writtenFields i = []) :
    Completes (exec i s) fun t => t.S.pc = (if p then s.S.pc + 4 else s.S.pc + 2) ∧ sameBut [.pc] s t := by
  refine ⟨_, e, ?_, hw ▸ exec_sameBut e⟩
  rw [MachineState.skipIf_pc]
  exact if_congr hc rfl rfl

/-- Settles O37: each of the four skips on the Boolean form of its comparison. -/
theorem comparingSkipsAdvancePc : Obligations.ComparingSkipsAdvancePc := by
  intro x y kk
  refine ⟨decode_encode (i := .se x kk) rfl, decode_encode (i := .sne x kk) rfl, decode_encode (i := .seReg x y) rfl,
    decode_encode (i := .sneReg x y) rfl, fun s => ⟨?se, ?sne, ?seReg, ?sneReg⟩⟩
  case se => exact completes_of_skipIf rfl beq_iff_eq rfl
  case sne => exact completes_of_skipIf rfl bne_iff_ne rfl
  case seReg => exact completes_of_skipIf rfl beq_iff_eq rfl
  case sneReg => exact completes_of_skipIf rfl bne_iff_ne rfl

/-- A register that holds a key's number names that key (rules R115, R116). -/
theorem keyOperand_of_eq {b : Byte} {k : Reg} (h : b.toNat = k.val) : keyOperand b = .ok k := by
  obtain ⟨k', hk', e⟩ | ⟨hout, -⟩ := keyOperand_cases b
  · rw [e, Fin.ext (hk'.symm.trans h)]
  · omega

/-- A register that holds no key's number names none (rules R115, R116, decision D22). -/
theorem keyOperand_of_gt {b : Byte} (h : 15 < b.toNat) : keyOperand b = .error (.boundsError .key (zext8 b)) := by
  obtain ⟨k, hk, -⟩ | ⟨-, e⟩ := keyOperand_cases b
  · omega
  · exact e

/-- SKP on a key (rule R115). -/
theorem exec_skp_of_eq {x k : Reg} (h : (s.S.readV x).toNat = k.val) :
    exec (.skp x) s = s.install (s.S.skipIf (s.S.keyHeld k)) := by
  show execSkp x s = _
  rw [execSkp, keyOperand_of_eq h]

/-- SKNP on a key (rule R116). -/
theorem exec_sknp_of_eq {x k : Reg} (h : (s.S.readV x).toNat = k.val) :
    exec (.sknp x) s = s.install (s.S.skipIf (!s.S.keyHeld k)) := by
  show execSknp x s = _
  rw [execSknp, keyOperand_of_eq h]

/-- SKP on no key (rule R115, decision D22). -/
theorem exec_skp_of_gt {x : Reg} (h : 15 < (s.S.readV x).toNat) :
    exec (.skp x) s = .fault (.boundsError .key (zext8 (s.S.readV x))) := by
  show execSkp x s = _
  rw [execSkp, keyOperand_of_gt h]

/-- SKNP on no key (rule R116, decision D22). -/
theorem exec_sknp_of_gt {x : Reg} (h : 15 < (s.S.readV x).toNat) :
    exec (.sknp x) s = .fault (.boundsError .key (zext8 (s.S.readV x))) := by
  show execSknp x s = _
  rw [execSknp, keyOperand_of_gt h]

/-- Settles O38: a key's number decides between the skip and the fault. -/
theorem keySkipsReadKeyOrFault : Obligations.KeySkipsReadKeyOrFault := by
  intro x
  refine ⟨decode_encode (i := .skp x) rfl, decode_encode (i := .sknp x) rfl,
    fun s => ⟨fun k hk => ⟨?skp, ?sknp⟩, fun h => ?none⟩⟩
  case skp => exact completes_of_skipIf (exec_skp_of_eq hk) Iff.rfl rfl
  case sknp => exact completes_of_skipIf (exec_sknp_of_eq hk) (by simp) rfl
  case none => exact ⟨exec_skp_of_gt h, exec_sknp_of_gt h⟩

end Sys2Proof.Machine
end

section
/-!
PROOFS. Register loads and ALU (spec/42_load_alu.md): the plain results (rules R120 to R125) and the results with a flag (rules R126 to
R130), each instruction told from the others by the byte it computes alone.
-/

namespace Sys2Proof.Machine

variable {s : State}

/-! ## Plain results -/

/-- An instruction with a plain result for Vx completes with it (rule R40). -/
theorem completes_of_finishV {i : Instr} {x : Reg} {b b' : Byte} (e : exec i s = s.finishV x b) (hb : b = b')
    (hw : writtenFields i = [.V]) :
    Completes (exec i s) fun t => setsReg x b' s t ∧ t.S.pc = s.S.pc + 2 ∧ sameBut [.pc, .V] s t := by
  subst hb
  exact ⟨_, e, setsReg_of_S_eq_writeV rfl, rfl, hw ▸ exec_sameBut e⟩

/-- The wrapping sum of two bytes, as a number reduced (rule R121). -/
theorem add_eq_ofNat_mod (a b : Byte) : a + b = BitVec.ofNat 8 ((a.toNat + b.toNat) % 256) := by
  refine BitVec.eq_of_toNat_eq ?_
  rw [BitVec.toNat_add, BitVec.toNat_ofNat, Nat.mod_mod]

/-- Settles O39: three plain results. -/
theorem loadsAndLiteralAddSetVx : Obligations.LoadsAndLiteralAddSetVx := by
  intro x y kk
  refine ⟨decode_encode (i := .ldImm x kk) rfl, decode_encode (i := .addImm x kk) rfl, decode_encode (i := .ldReg x y) rfl,
    fun s => ⟨?ldImm, ?addImm, ?ldReg⟩⟩
  case ldImm => exact completes_of_finishV rfl rfl rfl
  case addImm => exact completes_of_finishV rfl (add_eq_ofNat_mod _ kk) rfl
  case ldReg => exact completes_of_finishV rfl rfl rfl

/-- An instruction with a plain result for Vx, the result described bit by bit (rules R123 to R125). -/
theorem completes_of_finishV_bits {i : Instr} {x : Reg} {b : Byte} {bits : Nat → Bool} (e : exec i s = s.finishV x b)
    (hb : ∀ k, b.getLsbD k = bits k) (hw : writtenFields i = [.V]) :
    Completes (exec i s) fun t => (∀ k, (t.S.readV x).getLsbD k = bits k) ∧ setsReg x (t.S.readV x) s t ∧
      t.S.pc = s.S.pc + 2 ∧ sameBut [.pc, .V] s t := by
  obtain ⟨t, ht, hset, hpc, hframe⟩ := completes_of_finishV e rfl hw
  have hx : t.S.readV x = b := (hset x).trans (if_pos rfl)
  exact ⟨t, ht, fun k => hx ▸ hb k, hx ▸ hset, hpc, hframe⟩

/-- Settles O40: three plain results, each by the bit law of its operation. -/
theorem logicalOpsSetVxBitwise : Obligations.LogicalOpsSetVxBitwise := by
  intro x y
  refine ⟨decode_encode (i := .or x y) rfl, decode_encode (i := .and x y) rfl, decode_encode (i := .xor x y) rfl,
    fun s => ⟨?or, ?and, ?xor⟩⟩
  case or => exact completes_of_finishV_bits rfl (fun _ => BitVec.getLsbD_or) rfl
  case and => exact completes_of_finishV_bits rfl (fun _ => BitVec.getLsbD_and) rfl
  case xor => exact completes_of_finishV_bits rfl (fun _ => BitVec.getLsbD_xor) rfl

/-! ## Results with a flag -/

/-- An instruction with a result for Vx and a flag for VF completes with both (rule R131). -/
theorem completes_of_finishAlu {i : Instr} {x : Reg} {o : AluOut} {result : Byte} {flag : Bool}
    (e : exec i s = s.finishAlu x o) (ho : o = ⟨result, flag⟩) (hw : writtenFields i = [.V]) :
    Completes (exec i s) fun t => setsAlu x result flag s t ∧ t.S.pc = s.S.pc + 2 ∧ sameBut [.pc, .V] s t := by
  subst ho
  exact ⟨_, e, writeback_readV s.S x _, rfl, hw ▸ exec_sameBut e⟩

/-- The difference modulo 256 is the wrapping difference (rule R127). -/
theorem subOut_eq (a b : Byte) : subOut a b = ⟨a - b, decide (b.toNat ≤ a.toNat)⟩ := by
  have hresult : BitVec.ofNat 8 ((a.toNat + 256 - b.toNat) % 256) = a - b := by bv_omega
  rw [subOut, hresult]

/-- Halving is a shift right (rule R128). -/
theorem shrOut_eq (a : Byte) : shrOut a = ⟨a >>> 1, a.getLsbD 0⟩ := by
  have hresult : BitVec.ofNat 8 (a.toNat / 2) = a >>> 1 := by bv_omega
  rw [shrOut, hresult]

/-- Doubling modulo 256 is a shift left, and it overflows when bit 7 is set (rule R130). -/
theorem shlOut_eq (a : Byte) : shlOut a = ⟨a <<< 1, a.getLsbD 7⟩ := by
  have hresult : BitVec.ofNat 8 (a.toNat * 2 % 256) = a <<< 1 := by bv_omega
  have hflag : decide (255 < a.toNat * 2) = a.getLsbD 7 := by
    rw [← BitVec.msb_eq_getLsbD_last, BitVec.msb_eq_decide]
    exact decide_eq_decide.2 (by omega)
  rw [shlOut, hresult, hflag]

/-- Settles O41: ADD_REG writes back the sum and its carry. -/
theorem addRegSetsSumAndCarry : Obligations.AddRegSetsSumAndCarry :=
  fun x y => ⟨decode_encode (i := .addReg x y) rfl, fun _ => completes_of_finishAlu rfl rfl rfl⟩

/-- Settles O42: SUB and SUBN write back a difference and its not-borrow, with the operands exchanged. -/
theorem subtractionsSetDifferenceAndNoBorrow : Obligations.SubtractionsSetDifferenceAndNoBorrow := by
  intro x y
  refine ⟨decode_encode (i := .sub x y) rfl, decode_encode (i := .subn x y) rfl, fun s => ⟨?sub, ?subn⟩⟩
  case sub => exact completes_of_finishAlu rfl (subOut_eq _ _) rfl
  case subn => exact completes_of_finishAlu rfl (subOut_eq _ _) rfl

/-- Settles O43: SHR and SHL write back a shift of Vx and the bit shifted out, whatever y is. -/
theorem shiftsSetResultAndBitShiftedOut : Obligations.ShiftsSetResultAndBitShiftedOut := by
  intro x y
  refine ⟨decode_encode (i := .shr x y) rfl, decode_encode (i := .shl x y) rfl, fun s => ⟨?shr, ?shl⟩⟩
  case shr => exact completes_of_finishAlu rfl (shrOut_eq _) rfl
  case shl => exact completes_of_finishAlu rfl (shlOut_eq _) rfl

end Sys2Proof.Machine
end

section
/-!
PROOFS. The address register, BCD, the timer moves and the key wait (spec/43_index_memory.md, spec/45_timers_keywait.md): rules R140 to
R143 and R160 to R163.
-/

namespace Sys2Proof.Machine

variable {s t : State}

/-- An instruction that completes with pc + 2 after one update. -/
theorem completes_of_next {i : Instr} {P : State → Prop} (e : exec i s = .next t) (hP : P t) (hpc : t.S.pc = s.S.pc + 2) :
    Completes (exec i s) fun t => P t ∧ t.S.pc = s.S.pc + 2 ∧ sameBut (.pc :: writtenFields i) s t :=
  ⟨t, e, hP, hpc, exec_sameBut e⟩

/-! ## The address register -/

/-- Settles O45: LD_ADDR sets I to the literal. -/
theorem ldAddrSetsI : Obligations.LdAddrSetsI :=
  fun nnn => ⟨decode_encode (i := .ldAddr nnn) rfl, fun _ => completes_of_next rfl (zext12_toNat nnn) rfl⟩

/-- A byte added to I wraps at 16 bits (rule R141). -/
theorem add_zext8_toNat (w : Word) (b : Byte) : (w + zext8 b).toNat = (w.toNat + b.toNat) % 65536 := by
  rw [BitVec.toNat_add, zext8_toNat]

/-- Five times a byte fits into 16 bits (rule R142). -/
theorem glyphAddr_toNat (b : Byte) : (glyphAddr b).toNat = 5 * b.toNat :=
  Nat.mod_eq_of_lt (by omega)

/-- Settles O46: ADD_I_VX and LD_FONT set I to a sum and to a glyph's address. -/
theorem indexArithmeticSetsI : Obligations.IndexArithmeticSetsI := by
  intro x
  refine ⟨decode_encode (i := .addIVx x) rfl, decode_encode (i := .ldFont x) rfl, fun s => ⟨?addIVx, ?ldFont⟩⟩
  case addIVx => exact completes_of_next rfl (add_zext8_toNat s.S.I (s.S.readV x)) rfl
  case ldFont => exact completes_of_next rfl (glyphAddr_toNat (s.S.readV x)) rfl

/-! ## BCD -/

/-- BCD inside memory stores its three digits at I (rule R143). -/
theorem exec_bcd_of_inside {x : Reg} (h : s.S.dataAddr + 2 ≤ 0xFFF) :
    exec (.bcd x) s =
      .next { s with S := (s.S.setMem (Memory.writeBytes s.S.mem s.S.dataAddr (bcdDigits (s.S.readV x)))).advance } := by
  obtain ⟨-, e⟩ | ⟨-, hout, -⟩ := State.storeAtI_cases s (bcdDigits (s.S.readV x))
  · exact e
  · have hlen : (bcdDigits (s.S.readV x)).length = 3 := rfl
    omega

/-- BCD reaching above 0xFFF faults (rule R143, decision D21). -/
theorem exec_bcd_of_outside {x : Reg} (h : 0xFFF < s.S.dataAddr + 2) :
    exec (.bcd x) s = .fault (.boundsError .mem (if 0xFFF < s.S.dataAddr then s.S.I else 0x1000)) := by
  have hlen : (bcdDigits (s.S.readV x)).length = 3 := rfl
  obtain ⟨hnil | hin, -⟩ | ⟨-, -, e⟩ := State.storeAtI_cases s (bcdDigits (s.S.readV x))
  · cases hnil
  · omega
  · rw [← MachineState.ofNat_lowestInvalid_dataAddr]
    exact e

/-- A byte of a run just stored reads back. -/
theorem Memory.read_writeBytes_add (m : Memory) (a : Nat) {bs : List Byte} {k : Nat} (hk : k < bs.length) :
    Memory.read (Memory.writeBytes m a bs) (a + k) = bs.getD k 0 := by
  rw [Memory.read_writeBytes, if_pos (by omega), Nat.add_sub_cancel_left]

/-- A digit just stored reads back (rule R143). -/
theorem Memory.read_bcdDigits_toNat (m : Memory) (a : Nat) {b : Byte} {k d : Nat} (hk : k < 3)
    (hd : (bcdDigits b).getD k 0 = BitVec.ofNat 8 d) (hlt : d < 256) :
    (Memory.read (Memory.writeBytes m a (bcdDigits b)) (a + k)).toNat = d := by
  rw [Memory.read_writeBytes_add m a hk, hd]
  exact Nat.mod_eq_of_lt hlt

/-- Settles O47: I decides between the three digits, each of which fits a byte and reads back, and the fault. -/
theorem bcdStoresThreeDigits : Obligations.BcdStoresThreeDigits := by
  intro x
  refine ⟨decode_encode (i := .bcd x) rfl, fun s => ⟨fun hin => ?stored, exec_bcd_of_outside⟩⟩
  case stored =>
    have e := exec_bcd_of_inside (x := x) hin
    have hlen : (bcdDigits (s.S.readV x)).length = 3 := rfl
    refine ⟨_, e, ?hundreds, ?tens, ?units, fun b hb => State.storeAtI_read_of_not_mem e (by omega), rfl, exec_sameBut e⟩
    case hundreds => exact Memory.read_bcdDigits_toNat _ _ (k := 0) (by decide) rfl (by omega)
    case tens => exact Memory.read_bcdDigits_toNat _ _ (k := 1) (by decide) rfl (by omega)
    case units => exact Memory.read_bcdDigits_toNat _ _ (k := 2) (by decide) rfl (by omega)

/-! ## Timer moves and the key wait -/

/-- Settles O53: three bytes moved. -/
theorem timerMovesCopyByte : Obligations.TimerMovesCopyByte := by
  intro x
  refine ⟨decode_encode (i := .ldVxDt x) rfl, decode_encode (i := .ldDtVx x) rfl, decode_encode (i := .ldStVx x) rfl,
    fun s => ⟨?ldVxDt, ?ldDtVx, ?ldStVx⟩⟩
  case ldVxDt => exact completes_of_finishV rfl rfl rfl
  case ldDtVx => exact completes_of_next rfl rfl rfl
  case ldStVx => exact completes_of_next rfl rfl rfl

/-- Settles O54: WAIT_KEY notes its register, and reads no key. -/
theorem waitKeySetsAwaitedRegister : Obligations.WaitKeySetsAwaitedRegister :=
  fun x => ⟨decode_encode (i := .waitKey x) rfl, fun _ => completes_of_next rfl rfl rfl⟩

end Sys2Proof.Machine
end

section
/-!
PROOFS. DRW (spec/44_display.md): the pixels it plots are those of the sprite's set bits (rules R151, R152), and the same DRW twice
restores the picture (rule R153).
-/

namespace Sys2Proof.Machine

variable {s : State}

/-! ## The sprite drawn -/

/-- The picture and the collision flag after the sprite of `n` rows at I is drawn at column `cx` and row `cy` (rule R152). -/
def MachineState.drawSprite (m : MachineState) (n cx cy : Nat) : FrameBuffer × Bool :=
  drawRows (Memory.readBytes m.mem m.dataAddr n) cx cy (m.fb, false)

/-- A pixel is plotted exactly when the sprite has a set bit on it: with no more rows and columns than the picture has, wrapping shows
each sprite row in one frame row and each sprite column in one frame column (rules R151, R152). -/
theorem mem_spritePixels_iff_spriteBit (m : MachineState) {n : Nat} (hn : n ≤ 32) (cx cy : Nat) (r : Fin 32) (c : Fin 64) :
    (r, c) ∈ spritePixels (Memory.readBytes m.mem m.dataAddr n) cx cy ↔ spriteBit m n cx cy r c = true := by
  rw [mem_spritePixels, Memory.readBytes_length]
  simp only [spriteBit, Bool.and_eq_true, decide_eq_true_eq, and_assoc]
  constructor
  · rintro ⟨i, hi, hr, j, hj, hbit, hc⟩
    have hrow : (r.val + 32 - cy % 32) % 32 = i := by omega
    have hcol : (c.val + 64 - cx % 64) % 64 = j := by omega
    rw [hrow, hcol, ← Memory.readBytes_getD _ _ _ _ hi]
    exact ⟨hi, hj, hbit⟩
  · rintro ⟨hi, hj, hbit⟩
    rw [← Memory.readBytes_getD _ _ _ _ hi] at hbit
    exact ⟨_, hi, by omega, _, hj, hbit, by omega⟩

/-- Every pixel is inverted exactly where the sprite has a set bit (rule R152). -/
theorem MachineState.drawSprite_get (m : MachineState) {n : Nat} (hn : n ≤ 32) (cx cy : Nat) (r : Fin 32) (c : Fin 64) :
    FrameBuffer.get (m.drawSprite n cx cy).1 r c = (FrameBuffer.get m.fb r c ^^ spriteBit m n cx cy r c) := by
  have hnodup := nodup_spritePixels (Memory.readBytes m.mem m.dataAddr n) cx cy ((Memory.readBytes_length _ _ n).trans_le hn)
  obtain ⟨hget, -⟩ := plotAll_spec _ hnodup (m.fb, false)
  rw [drawSprite, drawRows_eq, hget, Bool.decide_congr (mem_spritePixels_iff_spriteBit m hn cx cy r c), Bool.decide_eq_true]

/-- The flag is raised exactly when the sprite has a set bit on a set pixel (rule R152). -/
theorem MachineState.drawSprite_collides_iff (m : MachineState) {n : Nat} (hn : n ≤ 32) (cx cy : Nat) :
    (m.drawSprite n cx cy).2 = true ↔ ∃ r c, FrameBuffer.get m.fb r c = true ∧ spriteBit m n cx cy r c = true := by
  have hnodup := nodup_spritePixels (Memory.readBytes m.mem m.dataAddr n) cx cy ((Memory.readBytes_length _ _ n).trans_le hn)
  obtain ⟨-, hflag⟩ := plotAll_spec _ hnodup (m.fb, false)
  rw [drawSprite, drawRows_eq, hflag]
  simp only [Bool.false_eq_true, false_or, Prod.exists, mem_spritePixels_iff_spriteBit m hn, and_comm]

/-! ## DRW -/

/-- The word Dxyn is DRW (rule R152). -/
theorem decode_encXyn_drw (x y : Reg) (n : BitVec 4) : decode (encXyn 0xD x y n) = .ok (.drw x y n.toNat) := by
  simp [decode]

/-- The engine after DRW of `n` rows at the coordinates in Vx and Vy (rule R152). -/
def State.drawn (s : State) (x y : Reg) (n : Nat) : State :=
  let p := s.S.drawSprite n (s.S.readV x).toNat (s.S.readV y).toNat
  { s with S := ((s.S.setFb p.1).writeV 15 (flagByte p.2)).advance }

/-- A sprite inside memory, or of no rows, is drawn (rule R152). -/
theorem exec_drw_of_inside {x y : Reg} {n : Nat} (h : n = 0 ∨ s.S.dataAddr + n ≤ 0x1000) :
    exec (.drw x y n) s = .next (s.drawn x y n) := by
  show execDrw x y n s = _
  rw [execDrw, memRead_of_inside s.S.mem h]
  rfl

/-- A sprite that leaves memory faults (rule R152, decision D21). -/
theorem exec_drw_of_outside {x y : Reg} {n : Nat} (hne : n ≠ 0) (h : 0x1000 < s.S.dataAddr + n) :
    exec (.drw x y n) s = .fault (.boundsError .mem (if 0xFFF < s.S.dataAddr then s.S.I else 0x1000)) := by
  show execDrw x y n s = _
  rw [execDrw, memRead_of_outside s.S.mem hne h, MachineState.ofNat_lowestInvalid_dataAddr]

/-- DRW writes its collision flag to VF and no other register. -/
theorem State.drawn_setsReg (s : State) (x y : Reg) (n : Nat) :
    setsReg 15 (flagByte (s.S.drawSprite n (s.S.readV x).toNat (s.S.readV y).toNat).2) s (s.drawn x y n) := by
  intro j
  simp [State.drawn]

/-- A row count of four bits is no more than the rows of the picture. -/
theorem rowCount_le (n : BitVec 4) : n.toNat ≤ 32 := by omega

/-- The extent of a sprite, its row count read as a number. -/
theorem rowCount_inside {n : BitVec 4} {a : Nat} (h : n = 0 ∨ a + n.toNat ≤ 0x1000) : n.toNat = 0 ∨ a + n.toNat ≤ 0x1000 :=
  h.imp_left (congrArg BitVec.toNat)

/-- Settles O51: the extent decides between the next state, whose pixels and flag are those of the sprite drawn, and the fault. -/
theorem drwXorsSpriteAndFlagsCollision : Obligations.DrwXorsSpriteAndFlagsCollision := by
  intro x y n
  refine ⟨decode_encXyn_drw x y n, fun s => ⟨fun hin => ?drawn, fun hne hout => ?outside⟩⟩
  case drawn =>
    have e := exec_drw_of_inside (x := x) (y := y) (rowCount_inside hin)
    have hflag := s.S.drawSprite_collides_iff (rowCount_le n) (s.S.readV x).toNat (s.S.readV y).toNat
    have hset := s.drawn_setsReg x y n.toNat
    refine ⟨_, e, s.S.drawSprite_get (rowCount_le n) _ _, fun hcol => ?collides, fun hfree => ?free, rfl, rfl, exec_sameBut e⟩
    case collides =>
      rw [hflag.2 hcol] at hset
      exact hset
    case free =>
      rw [Bool.eq_false_iff.2 (hflag.not.2 hfree)] at hset
      exact hset
  case outside => exact exec_drw_of_outside (fun h => hne (BitVec.eq_of_toNat_eq h)) hout

/-! ## The same DRW twice -/

theorem State.drawn_get (s : State) (x y : Reg) {n : Nat} (hn : n ≤ 32) (r : Fin 32) (c : Fin 64) :
    FrameBuffer.get (s.drawn x y n).S.fb r c =
      (FrameBuffer.get s.S.fb r c ^^ spriteBit s.S n (s.S.readV x).toNat (s.S.readV y).toNat r c) :=
  s.S.drawSprite_get hn _ _ r c

theorem flagByte_eq_one_iff (f : Bool) : flagByte f = 1 ↔ f = true := by
  cases f <;> decide

theorem State.drawn_VF_eq_one_iff (s : State) (x y : Reg) {n : Nat} (hn : n ≤ 32) :
    (s.drawn x y n).S.readV 15 = 1 ↔
      ∃ r c, FrameBuffer.get s.S.fb r c = true ∧
        spriteBit s.S n (s.S.readV x).toNat (s.S.readV y).toNat r c = true := by
  rw [s.drawn_setsReg x y n 15, if_pos rfl, flagByte_eq_one_iff]
  exact s.S.drawSprite_collides_iff hn _ _

/-- The sprite that a second DRW sees: memory and I are as before, and so are the coordinates when neither is VF. -/
theorem State.drawn_spriteBit (s : State) {x y : Reg} (n : Nat) (hx : x ≠ 15) (hy : y ≠ 15) :
    spriteBit (s.drawn x y n).S n ((s.drawn x y n).S.readV x).toNat ((s.drawn x y n).S.readV y).toNat =
      spriteBit s.S n (s.S.readV x).toNat (s.S.readV y).toNat := by
  rw [s.drawn_setsReg x y n x, s.drawn_setsReg x y n y, if_neg hx, if_neg hy]
  rfl

/-- Settles O52: the second DRW inverts the pixels of the first again, and collides where the first left one of them set. -/
theorem drwTwiceRestoresFrame : Obligations.DrwTwiceRestoresFrame := by
  intro x y n s hx hy hin bit
  have hn := rowCount_le n
  have hbit : spriteBit (s.drawn x y n.toNat).S n.toNat _ _ = bit := s.drawn_spriteBit n.toNat hx hy
  refine ⟨_, exec_drw_of_inside (rowCount_inside hin), _, exec_drw_of_inside (s := s.drawn x y n.toNat) (rowCount_inside hin),
    fun r c => ?restored, ?collides⟩
  case restored =>
    rw [State.drawn_get _ x y hn, hbit, State.drawn_get s x y hn, Bool.xor_assoc, Bool.xor_self, Bool.xor_false]
  case collides =>
    rw [State.drawn_VF_eq_one_iff _ x y hn, hbit]
    refine exists_congr fun r => exists_congr fun c => ?_
    rw [State.drawn_get s x y hn, and_comm]
    refine and_congr_right fun hset => ?_
    rw [show spriteBit s.S n.toNat _ _ r c = true from hset, Bool.xor_true, Bool.not_eq_true']

end Sys2Proof.Machine
end

section
/-!
PROOFS. When an instruction faults (rules R203, R218 of spec/60_exceptions.md): the condition of the table decides between the fault and
a next state.
-/

namespace Sys2Proof.Machine

variable {o : Result}

/-- The outcome is the fault named, or a next state when none is. -/
def FaultsAs (o : Result) : Option Fault → Prop
  | some f => o = .fault f
  | none => ∃ t, o = .next t

/-- An entry of the table whose condition is that of the fault. -/
theorem FaultsAs.ite {c : Prop} [Decidable c] {f : Fault} (hfault : c → o = .fault f) (hnext : ¬ c → ∃ t, o = .next t) :
    FaultsAs o (if c then some f else none) := by
  split
  · exact hfault ‹_›
  · exact hnext ‹_›

/-- The entry of an instruction that reaches `n` bytes at I. -/
theorem FaultsAs.dataFault {m : MachineState} {n : Nat} (hin : n = 0 ∨ m.dataAddr + n ≤ 0x1000 → ∃ t, o = .next t)
    (hout : n ≠ 0 → 0x1000 < m.dataAddr + n →
      o = .fault (.boundsError .mem (if 0xFFF < m.dataAddr then m.I else 0x1000))) :
    FaultsAs o (dataFault m n) := by
  unfold Machine.dataFault
  split
  · exact hin ‹_›
  · obtain ⟨hne, hlt⟩ := not_or.1 ‹_›
    exact hout hne (Nat.not_le.1 hlt)

/-- Settles O31: the eight instructions that may fault, each by what its condition decides; every other one completes. -/
theorem execFaultsExactlyAsTabulated : Obligations.ExecFaultsExactlyAsTabulated := by
  intro i s
  show FaultsAs (exec i s) (faultIn s.S i)
  cases i with
  | call => exact .ite exec_call_of_full fun h => ⟨_, exec_call_of_lt (Nat.not_le.1 h)⟩
  | ret =>
    refine .ite exec_ret_of_outside fun h => ?_
    obtain ⟨hne, hle⟩ := not_or.1 h
    exact ⟨_, exec_ret_of_eq_succ (k := ⟨s.S.SP.toNat - 1, by omega⟩) (Nat.succ_pred hne).symm⟩
  | skp x => exact .ite exec_skp_of_gt fun h => ⟨_, exec_skp_of_eq (k := ⟨_, Nat.lt_succ_of_le (Nat.not_lt.1 h)⟩) rfl⟩
  | sknp x => exact .ite exec_sknp_of_gt fun h => ⟨_, exec_sknp_of_eq (k := ⟨_, Nat.lt_succ_of_le (Nat.not_lt.1 h)⟩) rfl⟩
  | bcd =>
    refine .dataFault (fun hin => ⟨_, exec_bcd_of_inside ?_⟩) fun _ hout => exec_bcd_of_outside ?_ <;> omega
  | storeRegs =>
    refine .dataFault (fun hin => ⟨_, exec_storeRegs_of_inside ?_⟩) fun _ hout => exec_storeRegs_of_outside ?_ <;> omega
  | loadRegs =>
    refine .dataFault (fun hin => ⟨_, exec_loadRegs_of_inside ?_⟩) fun _ hout => exec_loadRegs_of_outside ?_ <;> omega
  | drw => exact .dataFault (fun hin => ⟨_, exec_drw_of_inside hin⟩) exec_drw_of_outside
  | _ => exact ⟨_, rfl⟩

end Sys2Proof.Machine
end
